-- ==== Sys2Proof/Word.lean ====
section
/-! DEFINITION. The words of FTCODEC: bytes of a frame, 16-bit register values, floating-point bit patterns
(00_scope.md R11). -/

namespace Sys2Proof

/-- A byte of a frame, an 8-bit register (10_state.md R23). -/
abbrev Byte := BitVec 8

/-- A 16-bit register value (`REG_WIDTH`, 00_scope.md R9). -/
abbrev Word := BitVec 16

/-- The bit pattern of a datum of format `FLT`, 64 bits wide for binary64 (10_state.md R35). -/
abbrev FloatBits := BitVec 64

end Sys2Proof
end

