-- ==== Sys2Proof/Config.lean ====
section
/-! DEFINITION. The constants the document fixes (00_scope.md R9), the parameters it leaves open with the value the
spec takes (R10), and the free values of the model (10_state.md R38, 93_implementation_defined.md U1). -/

namespace Sys2Proof.Config

/-- Function code, read holding registers (R9). -/
abbrev FC_READ : Byte := 0x03
/-- Function code, write single register (R9). -/
abbrev FC_WSR : Byte := 0x06
/-- Function code, write multiple registers (R9). -/
abbrev FC_WMR : Byte := 0x10
/-- The CRC-16/MODBUS polynomial constant (R9). -/
abbrev CRC_POLY : Word := 0xA001
/-- The CRC-16/MODBUS initial value (R9). -/
abbrev CRC_INIT : Word := 0xFFFF
/-- The minimum received frame length in bytes (R9). -/
abbrev MIN_FRAME : Nat := 4
/-- Channels of a sample, and the fewest registers a sensor decode needs (R9). -/
abbrev NCHAN : Nat := 6
/-- Divisor of the force channels 0, 1, 2 (R9). -/
abbrev FORCE_DIV : Nat := 100
/-- Divisor of the torque channels 3, 4, 5 (R9). -/
abbrev TORQUE_DIV : Nat := 1000

/-- Cells of `FB` (R10). -/
abbrev FB_SIZE : Nat := 256
/-- Cells of `WB` (R10). -/
abbrev WB_SIZE : Nat := 123
/-- Cells of `RB` (R10). -/
abbrev RB_SIZE : Nat := 125
/-- Reset value of `UNIT` (R10). -/
abbrev UNIT_RESET : Byte := 0x01

/-- A binary floating-point format: its exponent bits and its fraction bits (10_state.md R35). -/
structure FloatFormat where
  expBits : Nat
  fracBits : Nat
deriving DecidableEq, Repr

/-- IEEE 754 binary64: sign bit 63, exponent bits 62:52, fraction bits 51:0 (10_state.md R35). -/
abbrev binary64 : FloatFormat := ⟨11, 52⟩

/-- IEEE 754 binary32, the open alternative: sign 31, exponent 30:23, fraction 22:0 (10_state.md R35). -/
abbrev binary32 : FloatFormat := ⟨8, 23⟩

/-- The format `FLT` of the cells of `FT`. DESIGN CHOICE (log entry 7): the spec's own choice among the two, its
decision D20 (00_scope.md R10). -/
abbrev FLT : FloatFormat := binary64

/-- The value that the `draw`-th read of an unwritten buffer cell of `w` bits gives. It has no body: nothing is known
of it, and every read uses another `draw` (10_state.md R38, 93_implementation_defined.md U1). DESIGN CHOICE (log
entry 1): of the two treatments the spec allows, the fresh value and not the refusal. Safe. -/
opaque freeCell (w draw : Nat) : BitVec w

end Sys2Proof.Config
end

