-- ==== Sys2Proof/Machine/Registers.lean ====
section
/-! DEFINITION. The names, numbers, widths and access rights of everything the host can address (10_state.md R21, R23,
R58), and the host's accesses (00_scope.md R6, 30_encoding.md R84). -/

namespace Sys2Proof.Machine

/-- A scalar register or one buffer cell (10_state.md R20, R23). -/
inductive HostReg where
  | cmd | status | unit | reg | cnt | val | flen | rcnt | exc | ackfc | ackreg | ackdat | crcv
  | fb (i : Fin 256)
  | wb (i : Fin 123)
  | rb (i : Fin 125)
  | ft (i : Fin 6)
deriving DecidableEq, Repr

/-- The register number of rule R23's table. -/
def HostReg.number : HostReg → Nat
  | .cmd => 0x000
  | .status => 0x001
  | .unit => 0x002
  | .reg => 0x003
  | .cnt => 0x004
  | .val => 0x005
  | .flen => 0x006
  | .rcnt => 0x007
  | .exc => 0x008
  | .ackfc => 0x009
  | .ackreg => 0x00A
  | .ackdat => 0x00B
  | .crcv => 0x00C
  | .fb i => 0x100 + i
  | .wb i => 0x200 + i
  | .rb i => 0x300 + i
  | .ft i => 0x400 + i

/-- The thirteen scalar registers in the order of their numbers (10_state.md R23). -/
def HostReg.scalars : List HostReg :=
  [.cmd, .status, .unit, .reg, .cnt, .val, .flen, .rcnt, .exc, .ackfc, .ackreg, .ackdat, .crcv]

/-- The register or cell that a number names, none where rule R23 assigns the number to nothing. -/
def HostReg.ofNumber (n : Nat) : Option HostReg :=
  if n < 0x100 then HostReg.scalars[n]?
  else if h : n - 0x100 < 256 then some (.fb ⟨n - 0x100, h⟩)
  else if h : n - 0x200 < 123 then some (.wb ⟨n - 0x200, h⟩)
  else if n < 0x300 then none
  else if h : n - 0x300 < 125 then some (.rb ⟨n - 0x300, h⟩)
  else if n < 0x400 then none
  else if h : n - 0x400 < 6 then some (.ft ⟨n - 0x400, h⟩)
  else none

/-- The width in bits (10_state.md R23). A cell of `FT` has the width of `FLT`, 64 for binary64 (R35). -/
def HostReg.width : HostReg → Nat
  | .cmd => 8
  | .status => 8
  | .unit => 8
  | .reg => 16
  | .cnt => 16
  | .val => 16
  | .flen => 16
  | .rcnt => 8
  | .exc => 8
  | .ackfc => 8
  | .ackreg => 16
  | .ackdat => 16
  | .crcv => 16
  | .fb _ => 8
  | .wb _ => 16
  | .rb _ => 16
  | .ft _ => 64

/-- Whether the host may write it: the access column of rule R23, which rule R21 repeats. -/
def HostReg.writable : HostReg → Bool
  | .cmd => true
  | .status => false
  | .unit => true
  | .reg => true
  | .cnt => true
  | .val => true
  | .flen => true
  | .rcnt => true
  | .exc => false
  | .ackfc => false
  | .ackreg => false
  | .ackdat => false
  | .crcv => false
  | .fb _ => true
  | .wb _ => true
  | .rb _ => true
  | .ft _ => false

/-- What reaches the block from outside: a host access (00_scope.md R6), as the triple of 30_encoding.md R84, or a
reset (70_reset_and_hazards.md R210). Number and value are unbounded: the host may name a register that does not
exist or a value that does not fit (93_implementation_defined.md U7, U8). -/
inductive Event where
  | write (number value : Nat)
  | read (number : Nat)
  | reset
deriving DecidableEq, Repr

/-- What a host read returned: the register's number and the value. -/
structure Reply where
  number : Nat
  value : Nat
deriving DecidableEq, Repr

end Sys2Proof.Machine
end

