-- ==== Sys2Proof/Syntax.lean ====
section
/-! DEFINITION. The instructions of FTCODEC: one constructor per row of spec/opcode_table.json. The first six are the
commands (30_encoding.md R70); the other seven are the frame formats that the commands build or parse (R73 to R79), which the
table lists in its spaces REQ and RSP. -/

namespace Sys2Proof

/-- A row of the opcode table. No command carries an operand (30_encoding.md R71). A frame format is a row of its own;
what a format's constructor means is in log entry 5. -/
inductive Instr where
  /-- `ENC03`: build a read-holding-registers request (41_encode.md R112). -/
  | enc03
  /-- `ENC06`: build a write-single-register request (41_encode.md R114). -/
  | enc06
  /-- `ENC10`: build a write-multiple-registers request (41_encode.md R116). -/
  | enc10
  /-- `DEC`: validate and parse a received response frame (42_decode.md R130). -/
  | dec
  /-- `FTD`: decode six registers into a force/torque sample (43_sensor_decode.md R160). -/
  | ftd
  /-- `CRC`: CRC-16/MODBUS over `FB[0..FLEN-1]` (40_crc.md R104). -/
  | crc
  /-- Frame format `REQ03` (30_encoding.md R73). -/
  | req03
  /-- Frame format `REQ06` (30_encoding.md R74). -/
  | req06
  /-- Frame format `REQ10` (30_encoding.md R75). -/
  | req10
  /-- Frame format `RSP03` (30_encoding.md R76). -/
  | rsp03
  /-- Frame format `RSP06` (30_encoding.md R77). -/
  | rsp06
  /-- Frame format `RSP10` (30_encoding.md R78). -/
  | rsp10
  /-- Frame format `RSPEXC` (30_encoding.md R79): `low` is bits 6..0 of the function-code byte, which the block does
  not examine (R81). -/
  | rspexc (low : BitVec 7)
deriving DecidableEq, Repr

end Sys2Proof
end

