-- ==== Sys2Proof/WellFormed.lean ====
section
/-! DEFINITION. Which terms have an encoding: every instruction has one (no command has an operand, 30_encoding.md R71,
and the seven unexamined bits of `RSPEXC` take every value, R79); a host access has one when its number is assigned and its
value fits (10_state.md R21, 93_implementation_defined.md U7, U8). -/

namespace Sys2Proof

/-- Every row of the opcode table is well-formed at every value of its bits (30_encoding.md R71, R79). -/
def Instr.wf : Instr → Bool
  | .enc03 => true
  | .enc06 => true
  | .enc10 => true
  | .dec => true
  | .ftd => true
  | .crc => true
  | .req03 => true
  | .req06 => true
  | .req10 => true
  | .rsp03 => true
  | .rsp06 => true
  | .rsp10 => true
  | .rspexc _ => true

/-- A host access with an assigned number and a value of the register's width (10_state.md R21). -/
def Machine.Event.wf : Machine.Event → Bool
  | .write number value =>
    match Machine.HostReg.ofNumber number with
    | some r => decide (value < 2 ^ r.width)
    | none => false
  | .read number => (Machine.HostReg.ofNumber number).isSome
  | .reset => true

end Sys2Proof
end

