-- ==== Sys2Proof/Decode.lean ====
section
/-! DEFINITION. Decoding and encoding: command codes (30_encoding.md R70), and the function-code byte of a frame (R73 to R79,
R81), which keys the other rows of the opcode table. -/

namespace Sys2Proof

/-- The spaces of the opcode table: a code written to `CMD`, the function-code byte of a request frame, the
function-code byte of a response frame. -/
inductive Space where
  | cmd | req | rsp
deriving DecidableEq, Repr

/-- Why bytes are no instruction. -/
inductive DecodeError where
  /-- There is no byte to decode. -/
  | noByte
  /-- The byte is none of the six command codes (30_encoding.md R82). -/
  | undefinedCode (code : Byte)
deriving DecidableEq, Repr

/-- The command that a code written to `CMD` selects, none for the 250 undefined codes (30_encoding.md R70). -/
def decodeCmd (c : Byte) : Option Instr :=
  if c = 0x03 then some .enc03
  else if c = 0x06 then some .enc06
  else if c = 0x10 then some .enc10
  else if c = 0x40 then some .dec
  else if c = 0x41 then some .ftd
  else if c = 0x42 then some .crc
  else none

/-- The request format that a function-code byte keys (30_encoding.md R73 to R75). -/
def decodeReq (fc : Byte) : Option Instr :=
  if fc = Config.FC_READ then some .req03
  else if fc = Config.FC_WSR then some .req06
  else if fc = Config.FC_WMR then some .req10
  else none

/-- The response format that a function-code byte selects; bit 7 is tested first (30_encoding.md R81). -/
def decodeRsp (fc : Byte) : Option Instr :=
  if fc.getLsbD 7 then some (.rspexc (fc.extractLsb' 0 7))
  else if fc = Config.FC_READ then some .rsp03
  else if fc = Config.FC_WSR then some .rsp06
  else if fc = Config.FC_WMR then some .rsp10
  else none

/-- The row that a byte matches in one space of the opcode table. -/
def decodeIn : Space → Byte → Option Instr
  | .cmd, c => decodeCmd c
  | .req, fc => decodeReq fc
  | .rsp, fc => decodeRsp fc

/-- Decode the command at the front of a byte sequence: a command is one byte (30_encoding.md R71). -/
def decode : List Byte → Except DecodeError (Instr × List Byte)
  | [] => .error .noByte
  | c :: rest =>
    match decodeCmd c with
    | some i => .ok (i, rest)
    | none => .error (.undefinedCode c)

/-- The space of the opcode table that a row stands in. -/
def Instr.space : Instr → Space
  | .enc03 => .cmd
  | .enc06 => .cmd
  | .enc10 => .cmd
  | .dec => .cmd
  | .ftd => .cmd
  | .crc => .cmd
  | .req03 => .req
  | .req06 => .req
  | .req10 => .req
  | .rsp03 => .rsp
  | .rsp06 => .rsp
  | .rsp10 => .rsp
  | .rspexc _ => .rsp

/-- The byte of a row, from the tables of 30_encoding.md R70 and R73 to R79: the code of a command, the function-code
byte of a frame format. -/
def encode : Instr → Byte
  | .enc03 => 0b00000011
  | .enc06 => 0b00000110
  | .enc10 => 0b00010000
  | .dec => 0b01000000
  | .ftd => 0b01000001
  | .crc => 0b01000010
  | .req03 => 0b00000011
  | .req06 => 0b00000110
  | .req10 => 0b00010000
  | .rsp03 => 0b00000011
  | .rsp06 => 0b00000110
  | .rsp10 => 0b00010000
  | .rspexc low => (1#1 ++ low : BitVec 8)

/-- The `n` bytes of a word, the least significant first. -/
def tableBytes : (n w : Nat) → List Byte
  | 0, _ => []
  | n + 1, w => BitVec.ofNat 8 w :: tableBytes n (w / 256)

/-- What the command decoder reads from a word of `nbits` bits. The words of the table's REQ and RSP rows are
function-code bytes of frames, not codes written to `CMD`, so they are read here as command codes (log entry 6). -/
def decodeTableWord (nbits w : Nat) : Option Instr :=
  match decode (tableBytes ((nbits + 7) / 8) (w % 2 ^ nbits)) with
  | .ok (i, _) => some i
  | .error _ => none

end Sys2Proof
end

