-- ==== Sys2Proof/Machine/State.lean ====
section
/-! DEFINITION. The state of the block (10_state.md R20), its reset value (R38), and the reasons a step can stop. -/

namespace Sys2Proof.Machine

/-- A buffer: the cells written since reset, as (index, value) pairs with strictly rising indexes. An unlisted cell has
not been written and holds no value (10_state.md R38). At width 8 this is a list of `Host.Cell`. -/
abbrev Memory (w : Nat) := List (Nat × BitVec w)

/-- The architectural state (10_state.md R20), then the model's own three fields. -/
structure State where
  /-- `CMD`: the last value the host wrote to it (R26). -/
  cmd : Byte
  /-- `STATUS`: the outcome of the most recent command (R25). -/
  status : Byte
  /-- `UNIT`: the device address (R22). -/
  unit : Byte
  /-- `REG`: the starting register address (R22). -/
  reg : Word
  /-- `CNT`: the register count (R22). -/
  cnt : Word
  /-- `VAL`: the value of a write-single-register request (R22). -/
  val : Word
  /-- `FLEN`: the number of valid bytes in `FB` (R27). -/
  flen : Word
  /-- `RCNT`: the number of valid registers in `RB` (R28). -/
  rcnt : Byte
  /-- `EXC`: the last exception code decoded (R29). -/
  exc : Byte
  /-- `ACKFC`: function code of the last acknowledgement decoded (R30). -/
  ackfc : Byte
  /-- `ACKREG`: its register address (R30). -/
  ackreg : Word
  /-- `ACKDAT`: its value or count (R30). -/
  ackdat : Word
  /-- `CRCV`: the result of the last `CRC` command (R31). -/
  crcv : Word
  /-- `FB`: the frame buffer, 256 cells of 8 bits (R32). -/
  fb : Memory 8
  /-- `WB`: the write-values buffer, 123 cells of 16 bits (R33). -/
  wb : Memory 16
  /-- `RB`: the register buffer, 125 cells of 16 bits (R34). -/
  rb : Memory 16
  /-- `FT`: the sample result file, 6 cells of format `FLT` (R35). -/
  ft : Memory 64
  /-- The model's own: how many reads of unwritten cells have drawn a free value (log entry 2). -/
  draws : Nat
  /-- The model's own: what the host will do next, oldest first (log entry 3). -/
  pending : List Event
  /-- The model's own: what the host's reads have returned, newest first (log entry 4). -/
  replies : List Reply
deriving DecidableEq, Repr

/-- The block never stops with a fault: an error is an ordinary outcome in `STATUS` (60_exceptions.md R180, R197). No
constructor: nothing raises one. -/
inductive Fault where
deriving DecidableEq, Repr

/-- Why a step has no answer. -/
inductive Refusal where
  /-- An instruction without a meaning. Raised by no arm of this model. Safe. -/
  | notModelled (mnemonic : String)
  /-- The host accesses a register number that 10_state.md R23 does not assign: the spec's treatment is to refuse
  (93_implementation_defined.md U7). Raised by host accesses only. Safe. -/
  | unassignedNumber (number : Nat)
  /-- The host writes a value that does not fit the register: the spec's treatment is to refuse
  (93_implementation_defined.md U8). Raised by host accesses only. Safe. -/
  | valueTooWide (number value : Nat)
deriving DecidableEq, Repr

/-- The state after reset (10_state.md R38): every scalar at its listed value, no buffer cell written. -/
def State.reset : State where
  cmd := 0x00
  status := 0x00
  unit := Config.UNIT_RESET
  reg := 0x0000
  cnt := 0x0000
  val := 0x0000
  flen := 0x0000
  rcnt := 0x00
  exc := 0x00
  ackfc := 0x00
  ackreg := 0x0000
  ackdat := 0x0000
  crcv := 0xFFFF
  fb := []
  wb := []
  rb := []
  ft := []
  draws := 0
  pending := []
  replies := []

end Sys2Proof.Machine
end

