-- ==== Sys2Proof/Machine/Flags.lean ====
section
/-! DEFINITION. `STATUS`, the block's only flag register: its values (10_state.md R25) and which command sets which. -/

namespace Sys2Proof.Machine

/-- The fourteen values of `STATUS` by name (10_state.md R25). -/
inductive Status where
  | idle
  | okFrame
  | okRegisters
  | okWriteack
  | okException
  | okSample
  | okCrc
  | errShort
  | errAddr
  | errCrc
  | errMalformed
  | errInsufficient
  | errParam
  | errCmd
deriving DecidableEq, Repr

/-- The value that `STATUS` holds for an outcome (10_state.md R25). -/
def Status.code : Status → Byte
  | .idle => 0x00
  | .okFrame => 0x01
  | .okRegisters => 0x02
  | .okWriteack => 0x03
  | .okException => 0x04
  | .okSample => 0x05
  | .okCrc => 0x06
  | .errShort => 0x08
  | .errAddr => 0x09
  | .errCrc => 0x0A
  | .errMalformed => 0x0B
  | .errInsufficient => 0x0C
  | .errParam => 0x0D
  | .errCmd => 0x0E

/-- Every listed status (10_state.md R25). -/
def Status.all : List Status :=
  [.idle, .okFrame, .okRegisters, .okWriteack, .okException, .okSample, .okCrc, .errShort, .errAddr, .errCrc,
    .errMalformed, .errInsufficient, .errParam, .errCmd]

/-- Bit 3 of `STATUS`: 1 exactly for the error outcomes (10_state.md R25). -/
def Status.isError (st : Status) : Bool := st.code.getLsbD 3

/-- The statuses that the command of an instruction may end with: the 'Set by' column of 10_state.md R25 read by
command. A frame format ends as the command that builds or parses it. -/
def Instr.outcomes : Instr → List Status
  | .enc03 => [.okFrame]
  | .enc06 => [.okFrame]
  | .enc10 => [.okFrame, .errParam]
  | .dec => [.okRegisters, .okWriteack, .okException, .errShort, .errAddr, .errCrc, .errMalformed, .errParam]
  | .ftd => [.okSample, .errInsufficient]
  | .crc => [.okCrc, .errParam]
  | .req03 => [.okFrame]
  | .req06 => [.okFrame]
  | .req10 => [.okFrame, .errParam]
  | .rsp03 => [.okRegisters, .errShort, .errAddr, .errCrc, .errMalformed, .errParam]
  | .rsp06 => [.okWriteack, .errShort, .errAddr, .errCrc, .errMalformed, .errParam]
  | .rsp10 => [.okWriteack, .errShort, .errAddr, .errCrc, .errMalformed, .errParam]
  | .rspexc _ => [.okException, .errShort, .errAddr, .errCrc, .errMalformed, .errParam]

/-- The statuses that writing a code to `CMD` may leave: those of its command, `ERR_CMD` for an undefined code
(10_state.md R25, R26). -/
def statusesAfterCode (c : Byte) : List Status :=
  match decodeCmd c with
  | some i => Instr.outcomes i
  | none => [.errCmd]

end Sys2Proof.Machine
end

