-- ==== Sys2Proof/Machine/Operands.lean ====
section
/-! DEFINITION. Taking 16-bit values apart and putting them together (00_scope.md R11, 20_memory.md R52, R53), and the
signed reading (00_scope.md R11, 43_sensor_decode.md R163). -/

namespace Sys2Proof.Machine

/-- `hi8(v) = v[15:8]` (00_scope.md R11). -/
def hi8 (v : Word) : Byte := v.extractLsb' 8 8

/-- `lo8(v) = v[7:0]` (00_scope.md R11). -/
def lo8 (v : Word) : Byte := v.extractLsb' 0 8

/-- `be16(b0, b1) = b0 * 256 + b1` (00_scope.md R11). -/
def be16 (b0 b1 : Byte) : Word := BitVec.ofNat 16 (b0.toNat * 256 + b1.toNat)

/-- `s16(v)`: `v` if `v < 32768`, else `v - 65536` (00_scope.md R11). -/
def s16 (v : Word) : Int := if v.toNat < 32768 then v.toNat else (v.toNat : Int) - 65536

/-- The bytes of 16-bit values in a frame: each high byte first, in order (20_memory.md R52). -/
def bytesBe : List Word → List Byte
  | [] => []
  | v :: vs => hi8 v :: lo8 v :: bytesBe vs

/-- The 16-bit values that a frame's bytes hold: two bytes each, high byte first (20_memory.md R52). -/
def wordsBe : List Byte → List Word
  | b0 :: b1 :: bs => be16 b0 b1 :: wordsBe bs
  | _ => []

/-- The two bytes of a CRC trailer, low byte first (20_memory.md R53). -/
def trailerBytes (c : Word) : List Byte := [lo8 c, hi8 c]

end Sys2Proof.Machine
end

