-- ==== Sys2Proof/Machine/Ops.lean ====
section
/-! DEFINITION. The operations every meaning shares: reading and writing buffer cells (`MemRead`, `MemWrite`), and
ending a command (`raise`, `done`) (00_scope.md R13). -/

namespace Sys2Proof.Machine

/-- The cells are listed with strictly rising indexes, all at least `lo` and below `size`. -/
def Memory.wfFrom {w : Nat} (lo size : Nat) : Memory w → Bool
  | [] => true
  | (k, _) :: m => decide (lo ≤ k) && decide (k < size) && Memory.wfFrom (k + 1) size m

/-- The canonical form of a buffer of `size` cells: strictly rising indexes below `size` (20_memory.md R50). -/
def Memory.wf {w : Nat} (size : Nat) (m : Memory w) : Bool := Memory.wfFrom 0 size m

/-- The value of a cell, none if it has not been written since reset (10_state.md R38). -/
def Memory.read? {w : Nat} : Memory w → Nat → Option (BitVec w)
  | [], _ => none
  | (k, v) :: m, i => if k = i then some v else Memory.read? m i

/-- `S[i] <- v` (00_scope.md R13), keeping the indexes rising. -/
def Memory.write {w : Nat} : Memory w → Nat → BitVec w → Memory w
  | [], i, v => [(i, v)]
  | (k, x) :: m, i, v =>
    if i < k then (i, v) :: (k, x) :: m
    else if i = k then (i, v) :: m
    else (k, x) :: Memory.write m i v

/-- `MemWrite(S, i, len vs, vs)` (00_scope.md R13). -/
def Memory.writes {w : Nat} : Memory w → Nat → List (BitVec w) → Memory w
  | m, _, [] => m
  | m, i, v :: vs => Memory.writes (m.write i v) (i + 1) vs

/-- The value that a read of cell `i` gives and the draws made so far: an unwritten cell draws the next free value
(10_state.md R38, 93_implementation_defined.md U1; log entry 1). -/
def Memory.draw {w : Nat} (m : Memory w) (i draws : Nat) : BitVec w × Nat :=
  match m.read? i with
  | some v => (v, draws)
  | none => (Config.freeCell w draws, draws + 1)

/-- `MemRead(S, i, n)` (00_scope.md R13), cell by cell, with the draws made so far. -/
def Memory.drawRange {w : Nat} (m : Memory w) : (i n draws : Nat) → List (BitVec w) × Nat
  | _, 0, d => ([], d)
  | i, n + 1, d =>
    ((m.draw i d).1 :: (Memory.drawRange m (i + 1) n (m.draw i d).2).1,
      (Memory.drawRange m (i + 1) n (m.draw i d).2).2)

/-- Record the draws made. -/
def State.setDraws (s : State) (d : Nat) : State := { s with draws := d }

/-- Read one cell of a buffer. -/
def State.readCell {w : Nat} (s : State) (m : Memory w) (i : Nat) : BitVec w × State :=
  ((m.draw i s.draws).1, s.setDraws (m.draw i s.draws).2)

/-- Read `n` cells of a buffer from cell `i` on. -/
def State.readCells {w : Nat} (s : State) (m : Memory w) (i n : Nat) : List (BitVec w) × State :=
  ((m.drawRange i n s.draws).1, s.setDraws (m.drawRange i n s.draws).2)

/-- `STATUS <- st`. -/
def State.setStatus (s : State) (st : Status) : State := { s with status := st.code }

/-- `raise st`: end the command with an error; `STATUS` is written and nothing else (60_exceptions.md R190). This is
all that an error is: nothing is saved, nothing is vectored, and so there is nothing to return from (R180, R192). -/
def raise (st : Status) (s : State) : State := s.setStatus st

/-- `done st`: end the command normally, after its writes (00_scope.md R13). -/
def done (st : Status) (s : State) : State := s.setStatus st

end Sys2Proof.Machine
end

