-- ==== Sys2Proof/Machine/Crc.lean ====
section
/-! DEFINITION. The CRC-16/MODBUS function (40_crc.md R100 to R102), the trailer (R105) and the command `CRC` (R104). -/

namespace Sys2Proof.Machine

/-- The bit step (40_crc.md R102). -/
def crcBit (c : Word) : Word := if c.getLsbD 0 then (c >>> 1) ^^^ Config.CRC_POLY else c >>> 1

/-- `n` bit steps. -/
def crcBits : Nat → Word → Word
  | 0, c => c
  | n + 1, c => crcBits n (crcBit c)

/-- The byte step: the byte enters the low byte, then eight bit steps (40_crc.md R101). -/
def crcByte (c : Word) (b : Byte) : Word := crcBits 8 (c ^^^ b.setWidth 16)

/-- The byte steps over a sequence from a working value on. -/
def crcFrom : Word → List Byte → Word
  | c, [] => c
  | c, b :: bs => crcFrom (crcByte c b) bs

/-- `crc16(s)` (40_crc.md R100). -/
def crc16 (bytes : List Byte) : Word := crcFrom Config.CRC_INIT bytes

/-- A frame body with its trailer (40_crc.md R105). -/
def withTrailer (body : List Byte) : List Byte := body ++ trailerBytes (crc16 body)

/-- `CRCV <- v`. -/
def State.setCrcv (s : State) (v : Word) : State := { s with crcv := v }

/-- What `CRC` does (40_crc.md R104). -/
def sumFrame (s : State) : State :=
  if Config.FB_SIZE < s.flen.toNat then raise .errParam s
  else done .okCrc ((s.readCells s.fb 0 s.flen.toNat).2.setCrcv (crc16 (s.readCells s.fb 0 s.flen.toNat).1))

/-- `CRC` (40_crc.md R104). -/
def execCrc (s : State) : Host.Outcome State Fault Refusal := .next (sumFrame s)

end Sys2Proof.Machine
end

