-- ==== Sys2Proof/Machine/Encode.lean ====
section
/-! DEFINITION. The encode commands `ENC03`, `ENC06`, `ENC10` (41_encode.md) and the request formats they build
(30_encoding.md R73 to R75). -/

namespace Sys2Proof.Machine

/-- The body of a `REQ03` frame (30_encoding.md R73). -/
def req03Body (s : State) : List Byte :=
  [s.unit, Config.FC_READ, hi8 s.reg, lo8 s.reg, hi8 s.cnt, lo8 s.cnt]

/-- The body of a `REQ06` frame (30_encoding.md R74). -/
def req06Body (s : State) : List Byte :=
  [s.unit, Config.FC_WSR, hi8 s.reg, lo8 s.reg, hi8 s.val, lo8 s.val]

/-- The body of a `REQ10` frame with the values given (30_encoding.md R75): byte 6 is the byte count `2 * CNT`. -/
def req10Body (s : State) (values : List Word) : List Byte :=
  [s.unit, Config.FC_WMR, hi8 s.reg, lo8 s.reg, hi8 s.cnt, lo8 s.cnt, BitVec.ofNat 8 (2 * s.cnt.toNat)]
    ++ bytesBe values

/-- Put a frame into `FB` from `FB[0]` on and its length into `FLEN` (41_encode.md R110). -/
def State.placeFrame (s : State) (frame : List Byte) : State :=
  { s with fb := s.fb.writes 0 frame, flen := BitVec.ofNat 16 frame.length }

/-- What every encode command does with a frame body: append the trailer, place the frame, end with `OK_FRAME`
(41_encode.md R110). -/
def emitFrame (body : List Byte) (s : State) : State := done .okFrame (s.placeFrame (withTrailer body))

/-- Build a `REQ10` frame from `CNT` and `WB`; more values than `WB` has cells is `ERR_PARAM` (41_encode.md R116). -/
def emitReq10 (s : State) : State :=
  if Config.WB_SIZE < s.cnt.toNat then raise .errParam s
  else emitFrame (req10Body s (s.readCells s.wb 0 s.cnt.toNat).1) (s.readCells s.wb 0 s.cnt.toNat).2

/-- `ENC03` (41_encode.md R112). -/
def execEnc03 (s : State) : Host.Outcome State Fault Refusal := .next (emitFrame (req03Body s) s)

/-- `ENC06` (41_encode.md R114). -/
def execEnc06 (s : State) : Host.Outcome State Fault Refusal := .next (emitFrame (req06Body s) s)

/-- `ENC10` (41_encode.md R116). -/
def execEnc10 (s : State) : Host.Outcome State Fault Refusal := .next (emitReq10 s)

/-- The format `REQ03`: the block builds a frame of it, as `ENC03` does (30_encoding.md R73; log entry 5). -/
def execReq03 (s : State) : Host.Outcome State Fault Refusal := .next (emitFrame (req03Body s) s)

/-- The format `REQ06`: the block builds a frame of it, as `ENC06` does (30_encoding.md R74; log entry 5). -/
def execReq06 (s : State) : Host.Outcome State Fault Refusal := .next (emitFrame (req06Body s) s)

/-- The format `REQ10`: the block builds a frame of it, as `ENC10` does (30_encoding.md R75; log entry 5). -/
def execReq10 (s : State) : Host.Outcome State Fault Refusal := .next (emitReq10 s)

end Sys2Proof.Machine
end

