-- ==== Sys2Proof/Machine/Response.lean ====
section
/-! DEFINITION. The decode command `DEC` (42_decode.md) and the response formats it parses (30_encoding.md R76 to R79). -/

namespace Sys2Proof.Machine

/-- What the checks before the payload leave: the status of the first check that failed, or the function-code byte and
the payload; and the state, whose draws may have advanced. -/
inductive Received where
  | rejected (st : Status) (s : State)
  | accepted (fc : Byte) (payload : List Byte) (s : State)
deriving DecidableEq, Repr

/-- The trailer check and the split of a frame of `n` bytes, the cells read in the order of the pseudocode, after
`draws` reads of unwritten cells (42_decode.md R130, R134; log entry 12). -/
def checkTrailer (n draws : Nat) (s : State) : Received :=
  let body := s.fb.drawRange 0 (n - 2) draws
  let lo := s.fb.draw (n - 2) body.2
  let hi := s.fb.draw (n - 1) lo.2
  let fc := s.fb.draw 1 hi.2
  let payload := s.fb.drawRange 2 (n - 4) fc.2
  if lo.1 ≠ lo8 (crc16 body.1) ∨ hi.1 ≠ hi8 (crc16 body.1) then .rejected .errCrc (s.setDraws hi.2)
  else .accepted fc.1 payload.1 (s.setDraws payload.2)

/-- The checks of capacity, length, address and CRC, in that order (42_decode.md R130 to R134). -/
def receive (s : State) : Received :=
  if Config.FB_SIZE < s.flen.toNat then .rejected .errParam s
  else if s.flen.toNat < Config.MIN_FRAME then .rejected .errShort s
  else
    let a := s.fb.draw 0 s.draws
    if a.1 ≠ s.unit then .rejected .errAddr (s.setDraws a.2)
    else checkTrailer s.flen.toNat a.2 s

/-- `EXC <- code`. -/
def State.setExc (s : State) (code : Byte) : State := { s with exc := code }

/-- `RB[0..] <- values`, `RCNT <- CNT`. -/
def State.setRegisters (s : State) (values : List Word) : State :=
  { s with rb := s.rb.writes 0 values, rcnt := s.cnt.setWidth 8 }

/-- `ACKFC`, `ACKREG`, `ACKDAT`, all three together (10_state.md R30). -/
def State.setAck (s : State) (fc : Byte) (reg dat : Word) : State :=
  { s with ackfc := fc, ackreg := reg, ackdat := dat }

/-- An exception response: exactly one payload byte (42_decode.md R135). -/
def parseException (payload : List Byte) (s : State) : State :=
  match payload with
  | [code] => done .okException (s.setExc code)
  | _ => raise .errMalformed s

/-- A read response: a byte count equal to `2 * CNT` and to the number of data bytes, compared as unbounded integers,
then the registers (42_decode.md R137, R138). -/
def parseRegisters (payload : List Byte) (s : State) : State :=
  match payload with
  | [] => raise .errMalformed s
  | bc :: data =>
    if bc.toNat = 2 * s.cnt.toNat ∧ data.length = bc.toNat then done .okRegisters (s.setRegisters (wordsBe data))
    else raise .errMalformed s

/-- A write acknowledgement: exactly four payload bytes (42_decode.md R140, R141). -/
def parseAck (fc : Byte) (payload : List Byte) (s : State) : State :=
  match payload with
  | [r0, r1, d0, d1] => done .okWriteack (s.setAck fc (be16 r0 r1) (be16 d0 d1))
  | _ => raise .errMalformed s

/-- The payload parsed per function code; bit 7 first, and no other function code parses (42_decode.md R135, R136,
R142). -/
def parseResponse (fc : Byte) (payload : List Byte) (s : State) : State :=
  if fc.getLsbD 7 then parseException payload s
  else if fc = Config.FC_READ then parseRegisters payload s
  else if fc = Config.FC_WSR ∨ fc = Config.FC_WMR then parseAck fc payload s
  else raise .errMalformed s

/-- The payload parsed as `RSP03`; a function code that selects another format is malformed as this one. -/
def parseAsRsp03 (fc : Byte) (payload : List Byte) (s : State) : State :=
  if decodeRsp fc = some .rsp03 then parseRegisters payload s else raise .errMalformed s

/-- The payload parsed as `RSP06`; a function code that selects another format is malformed as this one. -/
def parseAsRsp06 (fc : Byte) (payload : List Byte) (s : State) : State :=
  if decodeRsp fc = some .rsp06 then parseAck fc payload s else raise .errMalformed s

/-- The payload parsed as `RSP10`; a function code that selects another format is malformed as this one. -/
def parseAsRsp10 (fc : Byte) (payload : List Byte) (s : State) : State :=
  if decodeRsp fc = some .rsp10 then parseAck fc payload s else raise .errMalformed s

/-- The payload parsed as `RSPEXC`; a function code with bit 7 clear is malformed as this one, and bits 6..0 are not
examined (30_encoding.md R79, R81). -/
def parseAsRspexc (fc : Byte) (payload : List Byte) (s : State) : State :=
  if fc.getLsbD 7 then parseException payload s else raise .errMalformed s

/-- The checks, then a parse of function code and payload (42_decode.md R130). -/
def decodeWith (parse : Byte → List Byte → State → State) (s : State) : State :=
  match receive s with
  | .rejected st t => raise st t
  | .accepted fc payload t => parse fc payload t

/-- `DEC` (42_decode.md R130). -/
def execDec (s : State) : Host.Outcome State Fault Refusal := .next (decodeWith parseResponse s)

/-- The format `RSP03`: the block receives a frame as one of this format (30_encoding.md R76; log entry 5). -/
def execRsp03 (s : State) : Host.Outcome State Fault Refusal := .next (decodeWith parseAsRsp03 s)

/-- The format `RSP06`: the block receives a frame as one of this format (30_encoding.md R77; log entry 5). -/
def execRsp06 (s : State) : Host.Outcome State Fault Refusal := .next (decodeWith parseAsRsp06 s)

/-- The format `RSP10`: the block receives a frame as one of this format (30_encoding.md R78; log entry 5). -/
def execRsp10 (s : State) : Host.Outcome State Fault Refusal := .next (decodeWith parseAsRsp10 s)

/-- The format `RSPEXC`: the block receives a frame as one of this format; `low` is not examined (30_encoding.md R79,
R81; log entry 5). -/
def execRspexc (_low : BitVec 7) (s : State) : Host.Outcome State Fault Refusal :=
  .next (decodeWith parseAsRspexc s)

end Sys2Proof.Machine
end

