-- ==== Sys2Proof/Machine/Floats.lean ====
section
/-! DEFINITION. `flt`: a rational number rounded into a binary floating-point format, to nearest, ties to even
(43_sensor_decode.md R164; formats: 10_state.md R35). The rational `num / den` is kept as its two integers and nothing is
rounded before the end. -/

namespace Sys2Proof.Machine

/-- The integer nearest to `n / d`, ties to the even one. -/
def roundHalfEven (n d : Nat) : Nat :=
  if 2 * (n % d) < d ∨ (2 * (n % d) = d ∧ n / d % 2 = 0) then n / d else n / d + 1

/-- Two integers whose quotient is `n / d * 2 ^ k`. -/
def scaleBy (n d : Nat) (k : Int) : Nat × Nat := (n * 2 ^ k.toNat, d * 2 ^ (-k).toNat)

/-- The exponent `e` with `2 ^ e ≤ n / d < 2 ^ (e + 1)`, for positive `n` and `d`. -/
def binade (n d : Nat) : Int :=
  let e : Int := (n.log2 : Int) - (d.log2 : Int)
  if (scaleBy n d (-e)).2 ≤ (scaleBy n d (-e)).1 then e else e - 1

/-- The exponent bias of a format: 1023 for binary64, 127 for binary32. -/
def bias (f : Config.FloatFormat) : Nat := 2 ^ (f.expBits - 1) - 1

/-- The bit pattern, without its sign, of `n / d` rounded into the format, for positive `n` and `d`. The significand in
units of the last place carries into the exponent field when it rounds up to a power of two. Below the normal range the
exponent stops at the least one and above it the result is infinity: IEEE 754, PRESUMED (log entry 13), never reached by
`FTD` (43_sensor_decode.md R166). -/
def magnitudeBits (f : Config.FloatFormat) (n d : Nat) : Nat :=
  let e : Int := max (binade n d) (1 - bias f)
  let scaled := scaleBy n d (f.fracBits - e)
  min ((e + bias f - 1).toNat * 2 ^ f.fracBits + roundHalfEven scaled.1 scaled.2)
    ((2 ^ f.expBits - 1) * 2 ^ f.fracBits)

/-- `flt(num / den)` as a bit pattern; `flt(0)` is positive zero (43_sensor_decode.md R164). -/
def fltBits (f : Config.FloatFormat) (num : Int) (den : Nat) : Nat :=
  if num = 0 then 0
  else (if num < 0 then 2 ^ (f.expBits + f.fracBits) else 0) + magnitudeBits f num.natAbs den

/-- `flt(num / den)` in the format `FLT` of the cells of `FT` (43_sensor_decode.md R164, 10_state.md R35). -/
def flt (num : Int) (den : Nat) : FloatBits := BitVec.ofNat 64 (fltBits Config.FLT num den)

/-- Sign bit 63 of a binary64 pattern (10_state.md R35). -/
def floatSign (p : FloatBits) : Bool := p.getLsbD 63

/-- Exponent bits 62:52 of a binary64 pattern (10_state.md R35). -/
def floatExponent (p : FloatBits) : Nat := (p.extractLsb' 52 11).toNat

/-- Fraction bits 51:0 of a binary64 pattern (10_state.md R35). -/
def floatFraction (p : FloatBits) : Nat := (p.extractLsb' 0 52).toNat

/-- A binary64 pattern is finite when its exponent field is not all ones. -/
def floatFinite (p : FloatBits) : Bool := decide (floatExponent p ≠ 2047)

/-- A binary64 pattern is normal when its exponent field is neither all ones nor zero. -/
def floatNormal (p : FloatBits) : Bool := decide (floatExponent p ≠ 2047) && decide (floatExponent p ≠ 0)

/-- The significand of a finite binary64 pattern in units of its last place. -/
def floatSignificand (p : FloatBits) : Nat :=
  if floatExponent p = 0 then floatFraction p else 2 ^ 52 + floatFraction p

/-- The number that a finite binary64 pattern stands for. -/
def floatValue (p : FloatBits) : ℚ :=
  (if floatSign p then -1 else 1) * (floatSignificand p : ℚ) * 2 ^ ((max (floatExponent p) 1 : Int) - 1075)

end Sys2Proof.Machine
end

