-- ==== Sys2Proof/Machine/Sensor.lean ====
section
/-! DEFINITION. The sensor decode command `FTD` (43_sensor_decode.md). -/

namespace Sys2Proof.Machine

/-- The divisor of channel `i`: 100 for the forces 0, 1, 2, 1000 for the torques 3, 4, 5 (43_sensor_decode.md R165). -/
def channelDivisor (i : Nat) : Nat := if i < 3 then Config.FORCE_DIV else Config.TORQUE_DIV

/-- What channel `i` holds for a register value (43_sensor_decode.md R160, R163, R164). -/
def channelValue (i : Nat) (v : Word) : FloatBits := flt (s16 v) (channelDivisor i)

/-- The channels from `i` on for the register values from `RB[i]` on. -/
def sampleFrom : Nat → List Word → List FloatBits
  | _, [] => []
  | i, v :: vs => channelValue i v :: sampleFrom (i + 1) vs

/-- `FT[0..] <- channels` (10_state.md R35). -/
def State.setSample (s : State) (channels : List FloatBits) : State := { s with ft := s.ft.writes 0 channels }

/-- What `FTD` does (43_sensor_decode.md R160): fewer than six registers is an error, further ones are not read. -/
def decodeSample (s : State) : State :=
  if s.rcnt.toNat < Config.NCHAN then raise .errInsufficient s
  else
    done .okSample
      ((s.readCells s.rb 0 Config.NCHAN).2.setSample (sampleFrom 0 (s.readCells s.rb 0 Config.NCHAN).1))

/-- `FTD` (43_sensor_decode.md R160). -/
def execFtd (s : State) : Host.Outcome State Fault Refusal := .next (decodeSample s)

end Sys2Proof.Machine
end

