-- ==== Sys2Proof/Machine/Dispatch.lean ====
section
/-! DEFINITION. One arm per row of the opcode table. -/

namespace Sys2Proof.Machine

def exec (i : Instr) (s : State) : Host.Outcome State Fault Refusal :=
  match i with
  | .enc03 => Sys2Proof.Machine.execEnc03 s
  | .enc06 => Sys2Proof.Machine.execEnc06 s
  | .enc10 => Sys2Proof.Machine.execEnc10 s
  | .dec => Sys2Proof.Machine.execDec s
  | .ftd => Sys2Proof.Machine.execFtd s
  | .crc => Sys2Proof.Machine.execCrc s
  | .req03 => Sys2Proof.Machine.execReq03 s
  | .req06 => Sys2Proof.Machine.execReq06 s
  | .req10 => Sys2Proof.Machine.execReq10 s
  | .rsp03 => Sys2Proof.Machine.execRsp03 s
  | .rsp06 => Sys2Proof.Machine.execRsp06 s
  | .rsp10 => Sys2Proof.Machine.execRsp10 s
  | .rspexc low => Sys2Proof.Machine.execRspexc low s

end Sys2Proof.Machine
end

