-- ==== Sys2Proof/Machine/Access.lean ====
section
/-! DEFINITION. What the block does with one event from outside: a host write, a host read, a reset (10_state.md R21, R26;
70_reset_and_hazards.md R210). -/

namespace Sys2Proof.Machine

/-- The current value of a scalar register or cell, and the state, in which an unwritten cell has drawn a free value
(10_state.md R21, R38). -/
def State.readReg (s : State) : HostReg → Nat × State
  | .cmd => (s.cmd.toNat, s)
  | .status => (s.status.toNat, s)
  | .unit => (s.unit.toNat, s)
  | .reg => (s.reg.toNat, s)
  | .cnt => (s.cnt.toNat, s)
  | .val => (s.val.toNat, s)
  | .flen => (s.flen.toNat, s)
  | .rcnt => (s.rcnt.toNat, s)
  | .exc => (s.exc.toNat, s)
  | .ackfc => (s.ackfc.toNat, s)
  | .ackreg => (s.ackreg.toNat, s)
  | .ackdat => (s.ackdat.toNat, s)
  | .crcv => (s.crcv.toNat, s)
  | .fb i => ((s.readCell s.fb i).1.toNat, (s.readCell s.fb i).2)
  | .wb i => ((s.readCell s.wb i).1.toNat, (s.readCell s.wb i).2)
  | .rb i => ((s.readCell s.rb i).1.toNat, (s.readCell s.rb i).2)
  | .ft i => ((s.readCell s.ft i).1.toNat, (s.readCell s.ft i).2)

/-- Store a value that fits; a register that is not host-writable does not change (10_state.md R21). -/
def State.writeReg (s : State) (r : HostReg) (v : Nat) : State :=
  match r with
  | .cmd => { s with cmd := BitVec.ofNat 8 v }
  | .status => s
  | .unit => { s with unit := BitVec.ofNat 8 v }
  | .reg => { s with reg := BitVec.ofNat 16 v }
  | .cnt => { s with cnt := BitVec.ofNat 16 v }
  | .val => { s with val := BitVec.ofNat 16 v }
  | .flen => { s with flen := BitVec.ofNat 16 v }
  | .rcnt => { s with rcnt := BitVec.ofNat 8 v }
  | .exc => s
  | .ackfc => s
  | .ackreg => s
  | .ackdat => s
  | .crcv => s
  | .fb i => { s with fb := s.fb.write i (BitVec.ofNat 8 v) }
  | .wb i => { s with wb := s.wb.write i (BitVec.ofNat 16 v) }
  | .rb i => { s with rb := s.rb.write i (BitVec.ofNat 16 v) }
  | .ft _ => s

/-- Execute the command whose code `CMD` now holds, to completion; an undefined code is `raise ERR_CMD`
(10_state.md R26). -/
def runCommand (s : State) : Host.Outcome State Fault Refusal :=
  match decodeCmd s.cmd with
  | some i => exec i s
  | none => .next (raise .errCmd s)

/-- `HostWrite(r, v)` (10_state.md R21, R26). An unassigned number and a value that does not fit are refused
(93_implementation_defined.md U7, U8; log entries 8 and 9). -/
def hostWrite (number value : Nat) (s : State) : Host.Outcome State Fault Refusal :=
  match HostReg.ofNumber number with
  | none => .refused (.unassignedNumber number)
  | some r =>
    if value < 2 ^ r.width then
      if r = .cmd then runCommand (s.writeReg r value) else .next (s.writeReg r value)
    else .refused (.valueTooWide number value)

/-- Record what a host read returned. -/
def State.reply (s : State) (number value : Nat) : State := { s with replies := ⟨number, value⟩ :: s.replies }

/-- `HostRead(r)` (10_state.md R21, 20_memory.md R57): the value goes to the host, the block does not change. -/
def hostRead (number : Nat) (s : State) : Host.Outcome State Fault Refusal :=
  match HostReg.ofNumber number with
  | none => .refused (.unassignedNumber number)
  | some r => .next ((s.readReg r).2.reply number (s.readReg r).1)

/-- Reset between two accesses (70_reset_and_hazards.md R210, R211): the block is as after reset. What is not the
block's own stays: the host's pending events and the replies it has, and the count of free values drawn (log entry 10). -/
def applyReset (s : State) : State :=
  { State.reset with draws := s.draws, pending := s.pending, replies := s.replies }

/-- One event. -/
def perform (e : Event) (s : State) : Host.Outcome State Fault Refusal :=
  match e with
  | .write number value => hostWrite number value s
  | .read number => hostRead number s
  | .reset => .next (applyReset s)

/-- Remove the oldest pending event. -/
def State.takeEvent (s : State) (rest : List Event) : State := { s with pending := rest }

end Sys2Proof.Machine
end

