-- ==== Sys2Proof/Machine/Step.lean ====
section
/-! DEFINITION. One step: the oldest pending event, whole (20_memory.md R56, R60). -/

namespace Sys2Proof.Machine

/-- One step. The block has no program counter (10_state.md R24): what it does next is the host's next access, and
while there is none it waits, unchanged (log entry 3). -/
def step (s : State) : Host.Outcome State Fault Refusal :=
  match s.pending with
  | [] => .next s
  | e :: rest => perform e (s.takeEvent rest)

/-- The state in which the very next step is the host writing the code `w` to `CMD`: the block has no other way to be
given an instruction (10_state.md R24, R26; log entry 3). -/
def State.withFetchWord (s : State) (nbits w : Nat) : State :=
  { s with pending := .write HostReg.cmd.number (w % 2 ^ nbits % 256) :: s.pending }

end Sys2Proof.Machine
end

