-- ==== Sys2Proof/Machine/Contract.lean ====
section
/-! DEFINITION. What the firmware outside the block makes of each status (60_exceptions.md R196). Nothing here is behaviour
of the block (00_scope.md R4): these functions only read a state. -/

namespace Sys2Proof.Machine

/-- The request that the firmware sent before it issued `DEC` (00_scope.md R14, ModbusRequest). -/
inductive Request where
  | readHoldingRegisters
  | writeSingleRegister
  | writeMultipleRegisters
deriving DecidableEq, Repr

/-- The firmware-level results of 60_exceptions.md R196. -/
inductive ClientResult where
  | timeout
  | protocolError
  | deviceException (code : Byte)
  | registers (values : List Word)
  | acknowledged
  | insufficientData
  | sample (channels : List FloatBits)
  | firmwareBug
deriving DecidableEq, Repr

/-- What the firmware concludes from the block's state after `DEC` or `FTD`, none where R196 has no row (`IDLE`,
`OK_FRAME`, `OK_CRC`). `Timeout` is the firmware's before it issues `DEC`, so no status gives it (R196, first row). -/
def clientResult (sent : Request) (s : State) : Option ClientResult :=
  if s.status = Status.errShort.code ∨ s.status = Status.errAddr.code ∨ s.status = Status.errCrc.code ∨
      s.status = Status.errMalformed.code then some .protocolError
  else if s.status = Status.okException.code then some (.deviceException s.exc)
  else if s.status = Status.okRegisters.code then
    match sent with
    | .readHoldingRegisters => some (.registers ((List.range s.rcnt.toNat).filterMap s.rb.read?))
    | .writeSingleRegister => some .protocolError
    | .writeMultipleRegisters => some .protocolError
  else if s.status = Status.okWriteack.code then
    match sent with
    | .readHoldingRegisters => some .protocolError
    | .writeSingleRegister =>
      if s.ackfc = Config.FC_WSR ∧ s.ackreg = s.reg ∧ s.ackdat = s.val then some .acknowledged
      else some .protocolError
    | .writeMultipleRegisters =>
      if s.ackfc = Config.FC_WMR ∧ s.ackreg = s.reg ∧ s.ackdat = s.cnt then some .acknowledged
      else some .protocolError
  else if s.status = Status.errInsufficient.code then some .insufficientData
  else if s.status = Status.okSample.code then some (.sample ((List.range Config.NCHAN).filterMap s.ft.read?))
  else if s.status = Status.errParam.code ∨ s.status = Status.errCmd.code then some .firmwareBug
  else none

/-- The firmware's conclusion from one exchange: `Timeout` when the Transport returned no bytes, and then `DEC` is not
issued (60_exceptions.md R196, R195). -/
def exchangeResult (sent : Request) (received : Nat) (s : State) : Option ClientResult :=
  if received = 0 then some .timeout else clientResult sent s

end Sys2Proof.Machine
end

