-- ==== Sys2Proof/Machine/HostProgram.lean ====
section
/-! DEFINITION. The spec's notation for sequences of host accesses, as lists of events (30_encoding.md R84, R85). -/

namespace Sys2Proof.Machine

/-- `WR name, value` (30_encoding.md R84). -/
def wr (r : HostReg) (value : Nat) : Event := .write r.number value

/-- `RD name` (30_encoding.md R84). -/
def rd (r : HostReg) : Event := .read r.number

/-- `CMD value`: a literal code (30_encoding.md R84). -/
def cmdLine (value : Nat) : Event := wr .cmd value

/-- A command's mnemonic as a line: `HostWrite(CMD, code)` (30_encoding.md R84). For the six commands of R70. -/
def issue (i : Instr) : Event := cmdLine (encode i).toNat

/-- `WR` of successive cells, the numbers counting up from a first one. -/
def wrCells (first : Nat) : List Nat → List Event
  | [] => []
  | v :: vs => .write first v :: wrCells (first + 1) vs

/-- `RD` of `n` successive cells. -/
def rdCells (first n : Nat) : List Event := (List.range n).map fun k => .read (first + k)

/-- `LDFRAME b0 b1 ...` (30_encoding.md R85), for up to 256 bytes. R85 gives no bound and there is no `FB[256]`; that the
register numbers count on past `FB[255]`, so that byte 256 goes to `WB[0]`, is the model's choice (DESIGN CHOICE, log
entry 15). -/
def ldframe (bytes : List Byte) : List Event :=
  wrCells (HostReg.fb 0).number (bytes.map BitVec.toNat) ++ [wr .flen bytes.length]

/-- `LDVALS v0 v1 ...` (30_encoding.md R85), for up to 123 values; a further one names a number that is not
assigned, and is refused (93_implementation_defined.md U7, log entry 8). -/
def ldvals (values : List Word) : List Event :=
  wrCells (HostReg.wb 0).number (values.map BitVec.toNat) ++ [wr .cnt values.length]

/-- `LDREGS v0 v1 ...` (30_encoding.md R85), for up to 125 values; a further one names a number that is not
assigned, and is refused (93_implementation_defined.md U7, log entry 8). -/
def ldregs (values : List Word) : List Event :=
  wrCells (HostReg.rb 0).number (values.map BitVec.toNat) ++ [wr .rcnt values.length]

/-- `RDFRAME` when `FLEN` holds `n` (30_encoding.md R85): the host learns `n` from its first read. For `n` up to 256; that
the register numbers count on past `FB[255]` for a greater `n` is the model's choice (DESIGN CHOICE, log entry 15). -/
def rdframe (n : Nat) : List Event := rd .flen :: rdCells (HostReg.fb 0).number n

/-- `RDSAMPLE` (30_encoding.md R85). -/
def rdsample : List Event := rdCells (HostReg.ft 0).number 6

end Sys2Proof.Machine
end

