-- ==== Sys2Proof/Safety.lean ====
section
/-! DEFINITION. What every state of a run satisfies, and the terms in which statements say what the buffers hold, what a command
reads and what it leaves alone. -/

namespace Sys2Proof.Machine

/-- Every buffer is in its canonical form, with no cell at or past its size (20_memory.md R50). -/
def State.buffersWf (s : State) : Bool :=
  s.fb.wf Config.FB_SIZE && s.wb.wf Config.WB_SIZE && s.rb.wf Config.RB_SIZE && s.ft.wf Config.NCHAN

/-- `STATUS` holds one of the fourteen listed codes (10_state.md R25, 93_implementation_defined.md U3). -/
def State.statusListed (s : State) : Bool := (Status.all.map Status.code).contains s.status

/-- `STATUS` is an outcome of the code that `CMD` holds, or both are as after reset (10_state.md R25, R26, R38). -/
def State.statusFitsCmd (s : State) : Bool :=
  (s.status == Status.idle.code && s.cmd == 0x00) || ((statusesAfterCode s.cmd).map Status.code).contains s.status

/-- `ACKFC` is 0x06 or 0x10, or 0x00 before the first acknowledgement (10_state.md R30, R38). -/
def State.ackfcListed (s : State) : Bool := s.ackfc == 0x00 || s.ackfc == 0x06 || s.ackfc == 0x10

/-- The six cells of `FT` are written all together (10_state.md R35), and each is positive zero or normal, so never a
NaN, an infinity, a subnormal or negative zero (43_sensor_decode.md R166). -/
def State.sampleSound (s : State) : Bool :=
  (s.ft.map Prod.fst == [] || s.ft.map Prod.fst == List.range Config.NCHAN) &&
    s.ft.all fun cell => cell.2 == 0 || floatNormal cell.2

/-- What every state of a run satisfies. -/
def State.Inv (s : State) : Prop :=
  s.buffersWf = true ∧ s.statusListed = true ∧ s.statusFitsCmd = true ∧ s.ackfcListed = true ∧ s.sampleSound = true

/-- A run is safe while every step answers and the states keep the invariant. -/
def safeRun : Nat → State → Prop
  | 0, s => s.Inv
  | n + 1, s => s.Inv ∧ ∃ t, step s = .next t ∧ safeRun n t

/-- The cells from `i` on have been written and hold these values. -/
def Memory.holds {w : Nat} (m : Memory w) : Nat → List (BitVec w) → Bool
  | _, [] => true
  | i, v :: vs => decide (m.read? i = some v) && Memory.holds m (i + 1) vs

/-- The `n` cells from `i` on have been written since reset. -/
def Memory.written {w : Nat} (m : Memory w) : (i n : Nat) → Bool
  | _, 0 => true
  | i, n + 1 => (m.read? i).isSome && Memory.written m (i + 1) n

/-- `FB[0..FLEN-1]` has been written and is this frame (10_state.md R27, R32). -/
def State.holdsFrame (s : State) (frame : List Byte) : Bool :=
  decide (s.flen.toNat = frame.length) && decide (frame.length ≤ Config.FB_SIZE) && s.fb.holds 0 frame

/-- The frame with the device's address, this function-code byte, this payload and a right trailer (30_encoding.md R72). -/
def State.goodFrame (s : State) (fc : Byte) (payload : List Byte) : List Byte := withTrailer (s.unit :: fc :: payload)

/-- Two buffers agree on the `n` cells from `i` on: the same cells written, with the same values. -/
def Memory.agree {w : Nat} (m m' : Memory w) (i n : Nat) : Prop := ∀ k, i ≤ k → k < i + n → m.read? k = m'.read? k

/-- Two states agree on everything that a command reads: the columns marked r in the access matrix (10_state.md R37),
and the count of free values drawn. -/
def State.sameOperands (i : Instr) (s s' : State) : Prop :=
  s.draws = s'.draws ∧
  match i with
  | .enc03 => s.unit = s'.unit ∧ s.reg = s'.reg ∧ s.cnt = s'.cnt
  | .enc06 => s.unit = s'.unit ∧ s.reg = s'.reg ∧ s.val = s'.val
  | .enc10 => s.unit = s'.unit ∧ s.reg = s'.reg ∧ s.cnt = s'.cnt ∧ s.wb.agree s'.wb 0 s.cnt.toNat
  | .dec => s.unit = s'.unit ∧ s.cnt = s'.cnt ∧ s.flen = s'.flen ∧ s.fb.agree s'.fb 0 s.flen.toNat
  | .ftd => s.rcnt = s'.rcnt ∧ s.rb.agree s'.rb 0 Config.NCHAN
  | .crc => s.flen = s'.flen ∧ s.fb.agree s'.fb 0 s.flen.toNat
  | .req03 => s.unit = s'.unit ∧ s.reg = s'.reg ∧ s.cnt = s'.cnt
  | .req06 => s.unit = s'.unit ∧ s.reg = s'.reg ∧ s.val = s'.val
  | .req10 => s.unit = s'.unit ∧ s.reg = s'.reg ∧ s.cnt = s'.cnt ∧ s.wb.agree s'.wb 0 s.cnt.toNat
  | .rsp03 => s.unit = s'.unit ∧ s.cnt = s'.cnt ∧ s.flen = s'.flen ∧ s.fb.agree s'.fb 0 s.flen.toNat
  | .rsp06 => s.unit = s'.unit ∧ s.flen = s'.flen ∧ s.fb.agree s'.fb 0 s.flen.toNat
  | .rsp10 => s.unit = s'.unit ∧ s.flen = s'.flen ∧ s.fb.agree s'.fb 0 s.flen.toNat
  | .rspexc _ => s.unit = s'.unit ∧ s.flen = s'.flen ∧ s.fb.agree s'.fb 0 s.flen.toNat

/-- A command changed nothing but what the access matrix marks w for it (10_state.md R37), `STATUS`, and the model's
count of free values drawn. -/
def State.onlyResultsChanged (i : Instr) (s t : State) : Prop :=
  match i with
  | .enc03 => t = { s with fb := t.fb, flen := t.flen, status := t.status }
  | .enc06 => t = { s with fb := t.fb, flen := t.flen, status := t.status }
  | .enc10 => t = { s with fb := t.fb, flen := t.flen, status := t.status, draws := t.draws }
  | .dec => t = { s with rb := t.rb, rcnt := t.rcnt, exc := t.exc, ackfc := t.ackfc, ackreg := t.ackreg,
                          ackdat := t.ackdat, status := t.status, draws := t.draws }
  | .ftd => t = { s with ft := t.ft, status := t.status, draws := t.draws }
  | .crc => t = { s with crcv := t.crcv, status := t.status, draws := t.draws }
  | .req03 => t = { s with fb := t.fb, flen := t.flen, status := t.status }
  | .req06 => t = { s with fb := t.fb, flen := t.flen, status := t.status }
  | .req10 => t = { s with fb := t.fb, flen := t.flen, status := t.status, draws := t.draws }
  | .rsp03 => t = { s with rb := t.rb, rcnt := t.rcnt, status := t.status, draws := t.draws }
  | .rsp06 => t = { s with ackfc := t.ackfc, ackreg := t.ackreg, ackdat := t.ackdat, status := t.status,
                            draws := t.draws }
  | .rsp10 => t = { s with ackfc := t.ackfc, ackreg := t.ackreg, ackdat := t.ackdat, status := t.status,
                            draws := t.draws }
  | .rspexc _ => t = { s with exc := t.exc, status := t.status, draws := t.draws }

/-- Every buffer cell that a command reads has been written since reset (93_implementation_defined.md U1); a command
that ends with an error on its length operand reads none (60_exceptions.md R187). -/
def State.operandsWritten (i : Instr) (s : State) : Bool :=
  let frame := decide (Config.FB_SIZE < s.flen.toNat) || s.fb.written 0 s.flen.toNat
  let values := decide (Config.WB_SIZE < s.cnt.toNat) || s.wb.written 0 s.cnt.toNat
  match i with
  | .enc03 => true
  | .enc06 => true
  | .enc10 => values
  | .dec => frame
  | .ftd => decide (s.rcnt.toNat < Config.NCHAN) || s.rb.written 0 Config.NCHAN
  | .crc => frame
  | .req03 => true
  | .req06 => true
  | .req10 => values
  | .rsp03 => frame
  | .rsp06 => frame
  | .rsp10 => frame
  | .rspexc _ => frame

/-- The value that a register or cell holds, none for a cell not written since reset (10_state.md R21, R38). -/
def State.valueOf? (s : State) : HostReg → Option Nat
  | .cmd => some s.cmd.toNat
  | .status => some s.status.toNat
  | .unit => some s.unit.toNat
  | .reg => some s.reg.toNat
  | .cnt => some s.cnt.toNat
  | .val => some s.val.toNat
  | .flen => some s.flen.toNat
  | .rcnt => some s.rcnt.toNat
  | .exc => some s.exc.toNat
  | .ackfc => some s.ackfc.toNat
  | .ackreg => some s.ackreg.toNat
  | .ackdat => some s.ackdat.toNat
  | .crcv => some s.crcv.toNat
  | .fb i => (s.fb.read? i).map BitVec.toNat
  | .wb i => (s.wb.read? i).map BitVec.toNat
  | .rb i => (s.rb.read? i).map BitVec.toNat
  | .ft i => (s.ft.read? i).map BitVec.toNat

/-- The results that a command leaves in two states are the same: every scalar and every cell that it wrote. -/
def State.sameResults (t t' : State) : Prop :=
  t.status = t'.status ∧ t.draws = t'.draws ∧
  (t.status = Status.okFrame.code → t.flen = t'.flen ∧ t.fb.agree t'.fb 0 t.flen.toNat) ∧
  (t.status = Status.okRegisters.code → t.rcnt = t'.rcnt ∧ t.rb.agree t'.rb 0 t.rcnt.toNat) ∧
  (t.status = Status.okException.code → t.exc = t'.exc) ∧
  (t.status = Status.okWriteack.code → t.ackfc = t'.ackfc ∧ t.ackreg = t'.ackreg ∧ t.ackdat = t'.ackdat) ∧
  (t.status = Status.okSample.code → t.ft.agree t'.ft 0 Config.NCHAN) ∧
  (t.status = Status.okCrc.code → t.crcv = t'.crcv)

end Sys2Proof.Machine
end

