-- ==== Sys2Proof/Certificates/Slice0/Obligations.lean ====
section
/-! DEFINITION. The statements about the model. -/

open Sys2Proof Sys2Proof.Machine

/-! ## Reset, decoding, steps -/

/-- After reset every scalar register holds its listed value and no buffer cell holds one (10_state.md R38). -/
def Obligations.ResetHoldsListedValues : Prop :=
  State.reset.cmd = 0x00 ∧ State.reset.status = Status.idle.code ∧ State.reset.unit = 0x01 ∧
  State.reset.reg = 0x0000 ∧ State.reset.cnt = 0x0000 ∧ State.reset.val = 0x0000 ∧ State.reset.flen = 0x0000 ∧
  State.reset.rcnt = 0x00 ∧ State.reset.exc = 0x00 ∧ State.reset.ackfc = 0x00 ∧ State.reset.ackreg = 0x0000 ∧
  State.reset.ackdat = 0x0000 ∧ State.reset.crcv = 0xFFFF ∧ State.reset.crcv = crc16 [] ∧
  ∀ i, State.reset.fb.read? i = none ∧ State.reset.wb.read? i = none ∧ State.reset.rb.read? i = none ∧
    State.reset.ft.read? i = none

/-- A reset between two accesses discards all state of the block (70_reset_and_hazards.md R210, R211). That the host's
pending accesses, its replies and the count of free values drawn stay is the model's choice (log entry 10). -/
def Obligations.ResetEventDiscardsAllState : Prop :=
  ∀ (s : State) (rest : List Event), s.pending = .reset :: rest →
    step s = .next { State.reset with draws := s.draws, pending := rest, replies := s.replies }

/-- The six command codes, and the 250 others undefined (30_encoding.md R70). -/
def Obligations.CommandCodesAreSix : Prop :=
  decodeCmd 0x03 = some .enc03 ∧ decodeCmd 0x06 = some .enc06 ∧ decodeCmd 0x10 = some .enc10 ∧
  decodeCmd 0x40 = some .dec ∧ decodeCmd 0x41 = some .ftd ∧ decodeCmd 0x42 = some .crc ∧
  (∀ c : Byte, decodeCmd c = none ↔
    (c ≠ 0x03 ∧ c ≠ 0x06 ∧ c ≠ 0x10 ∧ c ≠ 0x40 ∧ c ≠ 0x41 ∧ c ≠ 0x42)) ∧
  ((List.range 256).filter fun n => (decodeCmd (BitVec.ofNat 8 n)).isNone).length = 250

/-- A function-code byte selects the response format, bit 7 first, and 125 bytes select none (30_encoding.md R81). -/
def Obligations.ResponseFormatsByFunctionCode : Prop :=
  (∀ fc : Byte, fc.getLsbD 7 = true → ∃ low, decodeRsp fc = some (.rspexc low)) ∧
  decodeRsp 0b00000011 = some .rsp03 ∧ decodeRsp 0b00000110 = some .rsp06 ∧ decodeRsp 0b00010000 = some .rsp10 ∧
  (∀ fc : Byte, fc.getLsbD 7 = false → fc ≠ 0x03 → fc ≠ 0x06 → fc ≠ 0x10 → decodeRsp fc = none) ∧
  ((List.range 256).filter fun n => (decodeRsp (BitVec.ofNat 8 n)).isNone).length = 125

/-- Words written out from the encoding tables decode to their instructions (30_encoding.md R70, R79). -/
def Obligations.WrittenOutWordsDecode : Prop :=
  decodeTableWord 8 0b00000011 = some .enc03 ∧ decodeTableWord 8 0b00000110 = some .enc06 ∧
  decodeTableWord 8 0b00010000 = some .enc10 ∧ decodeTableWord 8 0b01000000 = some .dec ∧
  decodeTableWord 8 0b01000001 = some .ftd ∧ decodeTableWord 8 0b01000010 = some .crc ∧
  decodeIn .req 0b00000011 = some .req03 ∧ decodeIn .rsp 0b10000011 = some (.rspexc 0b0000011)

/-- Decoding the encoding of any row in its space gives the row back, with every value of its unexamined bits. -/
def Obligations.DecodeOfEncodeIsTheRow : Prop :=
  ∀ i : Instr, i.wf = true → decodeIn i.space (encode i) = some i

/-- A byte that decodes in a space is the encoding of what it decodes to, so no bit of it is dropped. -/
def Obligations.EncodeOfDecodeIsTheByte : Prop :=
  ∀ (sp : Space) (c : Byte) (i : Instr), decodeIn sp c = some i → i.space = sp ∧ encode i = c

/-- The register numbers and the widths, and that numbers name registers one to one (10_state.md R23). The width 64 of
`FT` is that of binary64 (log entry 7). -/
def Obligations.RegisterNumbersAreOneToOne : Prop :=
  (∀ r : HostReg, HostReg.ofNumber r.number = some r) ∧
  (∀ (n : Nat) (r : HostReg), HostReg.ofNumber n = some r → r.number = n) ∧
  ((HostReg.cmd.number, HostReg.cmd.width) = (0x000, 8) ∧ (HostReg.status.number, HostReg.status.width) = (0x001, 8) ∧
    (HostReg.unit.number, HostReg.unit.width) = (0x002, 8) ∧ (HostReg.reg.number, HostReg.reg.width) = (0x003, 16) ∧
    (HostReg.cnt.number, HostReg.cnt.width) = (0x004, 16) ∧ (HostReg.val.number, HostReg.val.width) = (0x005, 16) ∧
    (HostReg.flen.number, HostReg.flen.width) = (0x006, 16) ∧ (HostReg.rcnt.number, HostReg.rcnt.width) = (0x007, 8) ∧
    (HostReg.exc.number, HostReg.exc.width) = (0x008, 8) ∧ (HostReg.ackfc.number, HostReg.ackfc.width) = (0x009, 8) ∧
    (HostReg.ackreg.number, HostReg.ackreg.width) = (0x00A, 16) ∧
    (HostReg.ackdat.number, HostReg.ackdat.width) = (0x00B, 16) ∧
    (HostReg.crcv.number, HostReg.crcv.width) = (0x00C, 16)) ∧
  (∀ i : Fin 256, ((HostReg.fb i).number, (HostReg.fb i).width) = (0x100 + i.val, 8)) ∧
  (∀ i : Fin 123, ((HostReg.wb i).number, (HostReg.wb i).width) = (0x200 + i.val, 16)) ∧
  (∀ i : Fin 125, ((HostReg.rb i).number, (HostReg.rb i).width) = (0x300 + i.val, 16)) ∧
  (∀ i : Fin 6, ((HostReg.ft i).number, (HostReg.ft i).width) = (0x400 + i.val, 64))

/-- Writing a code to `CMD` stores it and runs the command whose code it is to completion in one step; an undefined
code is `raise ERR_CMD`; reading `CMD` gives what was written (10_state.md R26). -/
def Obligations.WritingCmdRunsTheCommand : Prop :=
  (∀ (s : State) (c : Byte) (rest : List Event), s.pending = .write 0x000 c.toNat :: rest →
    (∀ i, decodeCmd c = some i → step s = exec i { s with pending := rest, cmd := c }) ∧
    (decodeCmd c = none → step s = .next { s with pending := rest, cmd := c, status := Status.errCmd.code })) ∧
  (∀ (i : Instr) (s t : State), exec i s = .next t → t.cmd = s.cmd) ∧
  (∀ (s : State) (rest : List Event), s.pending = .read 0x000 :: rest →
    step s = .next { s with pending := rest, replies := ⟨0x000, s.cmd.toNat⟩ :: s.replies }) ∧
  State.reset.cmd = 0x00

/-- A step whose next instruction word decodes to an instruction runs exactly that instruction; the code is left in
`CMD` (10_state.md R26). -/
def Obligations.StepRunsTheDecodedInstruction : Prop :=
  ∀ (s : State) (nbits w : Nat) (i : Instr), decodeTableWord nbits w = some i →
    step (s.withFetchWord nbits w) = exec i { s with cmd := BitVec.ofNat 8 (w % 2 ^ nbits) }

/-- Without a host access the block waits, unchanged (10_state.md R24). That waiting is a step is the model's choice
(log entry 3). -/
def Obligations.BlockWaitsForTheHost : Prop := ∀ s : State, s.pending = [] → step s = .next s

/-! ## Host accesses -/

/-- A host read returns the value that the register or cell holds and changes nothing of the block (10_state.md R21). -/
def Obligations.HostReadReturnsTheValueHeld : Prop :=
  ∀ (s : State) (r : HostReg) (v : Nat) (rest : List Event), s.pending = .read r.number :: rest →
    s.valueOf? r = some v → step s = .next { s with pending := rest, replies := ⟨r.number, v⟩ :: s.replies }

/-- A host read of a cell not written since reset returns a free value, another one at every read, and changes nothing
of the block (10_state.md R38). That it is not refused is the model's choice (log entry 1). -/
def Obligations.HostReadOfUnwrittenCellDrawsAfresh : Prop :=
  ∀ (s : State) (r : HostReg) (rest : List Event), s.pending = .read r.number :: rest → s.valueOf? r = none →
    step s = .next { s with pending := rest, draws := s.draws + 1,
                            replies := ⟨r.number, (Config.freeCell r.width s.draws).toNat⟩ :: s.replies }

/-- A host write of a fitting value to a host-writable register sets it and leaves every other register and cell as it
was (10_state.md R21); a write to `CMD` besides runs a command and is stated apart. -/
def Obligations.HostWriteSetsItsRegisterOnly : Prop :=
  ∀ (s : State) (r : HostReg) (v : Nat) (rest : List Event), s.pending = .write r.number v :: rest →
    r.writable = true → r ≠ .cmd → v < 2 ^ r.width →
    ∃ t, step s = .next t ∧ t.valueOf? r = some v ∧ (∀ r', r' ≠ r → t.valueOf? r' = s.valueOf? r') ∧
      t.pending = rest ∧ t.replies = s.replies ∧ t.draws = s.draws

/-- A host write to a register that is not host-writable changes nothing (10_state.md R21). -/
def Obligations.ReadOnlyRegistersIgnoreWrites : Prop :=
  (∀ (s : State) (r : HostReg) (v : Nat) (rest : List Event), s.pending = .write r.number v :: rest →
    r.writable = false → v < 2 ^ r.width → step s = .next { s with pending := rest }) ∧
  (∀ r : HostReg, r.writable = false ↔
    r = .status ∨ r = .exc ∨ r = .ackfc ∨ r = .ackreg ∨ r = .ackdat ∨ r = .crcv ∨ ∃ i, r = .ft i)

/-- An access to a number that is not assigned is refused, and so is a value that does not fit, whatever the register,
also a read-only one and `CMD`. The spec calls both accesses not specified, with the treatment to refuse (10_state.md
R21; 93_implementation_defined.md U7, U8); that the model stops on them, and on a too-wide value before it looks at the
register's access, is the model's choice (log entries 8 and 9). -/
def Obligations.UnspecifiedAccessesAreRefused : Prop :=
  (∀ (s : State) (n : Nat) (rest : List Event), HostReg.ofNumber n = none →
    (s.pending = .read n :: rest → step s = .refused (.unassignedNumber n)) ∧
    ∀ v, s.pending = .write n v :: rest → step s = .refused (.unassignedNumber n)) ∧
  (∀ (s : State) (r : HostReg) (v : Nat) (rest : List Event), s.pending = .write r.number v :: rest →
    2 ^ r.width ≤ v → step s = .refused (.valueTooWide r.number v))

/-- A host read returns the value left by the host's write just before it (20_memory.md R60). -/
def Obligations.ReadAfterWriteReturnsTheValue : Prop :=
  ∀ (s : State) (r : HostReg) (v : Nat) (rest : List Event),
    s.pending = .write r.number v :: .read r.number :: rest → r.writable = true → r ≠ .cmd → v < 2 ^ r.width →
    ∃ t u, step s = .next t ∧ step t = .next u ∧ u.replies = ⟨r.number, v⟩ :: s.replies ∧ u.pending = rest

/-- Every well-formed event is answered with a next state: the block accepts every access after every outcome
(60_exceptions.md R180, R197). That a read of an unwritten cell, and a command whose operand cells are unwritten, are
answered too and not refused is the model's choice (log entry 1). -/
def Obligations.WellFormedEventsAreAnswered : Prop :=
  ∀ (s : State) (e : Event) (rest : List Event), s.pending = e :: rest → e.wf = true → ∃ t, step s = .next t

/-- `STATUS` and `CMD` are changed by no event but a write to `CMD` and a reset (10_state.md R25, R26). -/
def Obligations.OnlyCommandsWriteStatus : Prop :=
  ∀ (s t : State) (e : Event) (rest : List Event), s.pending = e :: rest → step s = .next t → e ≠ .reset →
    (∀ v, e ≠ .write 0x000 v) → t.status = s.status ∧ t.cmd = s.cmd

/-! ## The CRC function and the command `CRC` -/

/-- The bit step, the byte step and the sum over bytes in order (40_crc.md R100, R101, R102). -/
def Obligations.CrcTakesBytesInOrder : Prop :=
  crc16 [] = 0xFFFF ∧
  (∀ (bs : List Byte) (b : Byte), crc16 (bs ++ [b]) = crcByte (crc16 bs) b) ∧
  (∀ (c : Word) (b : Byte), crcByte c b = crcBit^[8] (c ^^^ b.setWidth 16)) ∧
  (∀ (c : Word) (b : Byte), hi8 (c ^^^ b.setWidth 16) = hi8 c ∧ lo8 (c ^^^ b.setWidth 16) = lo8 c ^^^ b) ∧
  (∀ c : Word, crcBit c = if c.getLsbD 0 = true then (c >>> 1) ^^^ 0xA001 else c >>> 1)

/-- The CRC of a sequence with its own trailer is zero (40_crc.md R106). -/
def Obligations.CrcResidueIsZero : Prop :=
  ∀ bs : List Byte, crc16 (bs ++ [lo8 (crc16 bs), hi8 (crc16 bs)]) = 0x0000

/-- The worked values (40_crc.md R108). -/
def Obligations.CrcWorkedValues : Prop :=
  crc16 [] = 0xFFFF ∧ crc16 [0x00] = 0x40BF ∧ crc16 [0x01] = 0x807E ∧ crc16 [0xFF] = 0x00FF ∧
  crc16 [0x01, 0x03] = 0x2140 ∧ crc16 [0x01, 0x03, 0x00, 0x00, 0x00, 0x0A] = 0xCDC5 ∧
  withTrailer [0x01, 0x03, 0x00, 0x00, 0x00, 0x0A] = [0x01, 0x03, 0x00, 0x00, 0x00, 0x0A, 0xC5, 0xCD] ∧
  crc16 [0x31, 0x32, 0x33, 0x34, 0x35, 0x36, 0x37, 0x38, 0x39] = 0x4B37

/-- A valid frame with exactly one byte changed fails the trailer check; `DEC` reports `ERR_ADDR` for a changed byte 0
and `ERR_CRC` for any other (40_crc.md R107). -/
def Obligations.OneChangedByteIsDetected : Prop :=
  (∀ (body : List Byte) (k : Nat) (b : Byte) (body' : List Byte) (x y : Byte),
    (withTrailer body).set k b = body' ++ [x, y] → (withTrailer body).set k b ≠ withTrailer body →
    ¬ (x = lo8 (crc16 body') ∧ y = hi8 (crc16 body'))) ∧
  (∀ (s : State) (fc : Byte) (payload : List Byte) (k : Nat) (b : Byte),
    (s.goodFrame fc payload).set k b ≠ s.goodFrame fc payload →
    s.holdsFrame ((s.goodFrame fc payload).set k b) = true →
    exec .dec s = .next { s with status := if k = 0 then Status.errAddr.code else Status.errCrc.code })

/-- `CRC` sums `FB[0..FLEN-1]`, 0 to 256 bytes, whatever they are; a greater `FLEN` is `ERR_PARAM`; nothing else
changes (40_crc.md R104). That it also runs on cells not written since reset, each a free value, is the model's choice
(log entry 1). -/
def Obligations.CrcCommandSumsTheFrame : Prop :=
  ∀ s : State,
    (s.flen.toNat ≤ 256 → ∃ (bytes : List Byte) (d : Nat),
      exec .crc s = .next { s with crcv := crc16 bytes, status := Status.okCrc.code, draws := d } ∧
      bytes.length = s.flen.toNat ∧
      (∀ k v, k < s.flen.toNat → s.fb.read? k = some v → bytes[k]? = some v) ∧
      (s.fb.written 0 s.flen.toNat = true → d = s.draws)) ∧
    (256 < s.flen.toNat → exec .crc s = .next { s with status := Status.errParam.code })

/-! ## Encode commands and request formats -/

/-- `ENC03` builds a `REQ03` frame from any operands, with no range check, and changes nothing but `FB`, `FLEN` and
`STATUS` (30_encoding.md R73; 41_encode.md R112). That the format's row is the same is the model's choice (log entry 5). -/
def Obligations.EncodeReadRequest : Prop :=
  ∀ (s : State) (i : Instr), (i = .enc03 ∨ i = .req03) →
    ∀ (F : List Byte), F = [s.unit, 0x03, hi8 s.reg, lo8 s.reg, hi8 s.cnt, lo8 s.cnt] →
      exec i s = .next { s with fb := s.fb.writes 0 (F ++ [lo8 (crc16 F), hi8 (crc16 F)]), flen := 8,
                                status := Status.okFrame.code }

/-- `ENC06` builds a `REQ06` frame from any operands and changes nothing but `FB`, `FLEN` and `STATUS`
(30_encoding.md R74; 41_encode.md R114). That the format's row is the same is the model's choice (log entry 5). -/
def Obligations.EncodeWriteSingleRequest : Prop :=
  ∀ (s : State) (i : Instr), (i = .enc06 ∨ i = .req06) →
    ∀ (F : List Byte), F = [s.unit, 0x06, hi8 s.reg, lo8 s.reg, hi8 s.val, lo8 s.val] →
      exec i s = .next { s with fb := s.fb.writes 0 (F ++ [lo8 (crc16 F), hi8 (crc16 F)]), flen := 8,
                                status := Status.okFrame.code }

/-- `ENC10` builds a `REQ10` frame of `CNT` values, 0 to 123; a greater `CNT` is `ERR_PARAM` with nothing else changed
(30_encoding.md R75; 41_encode.md R116). The model's choice is that the format's row is the same (log entry 5), and that
cells of `WB` not written since reset are free values (log entry 1). -/
def Obligations.EncodeWriteMultipleRequest : Prop :=
  ∀ (s : State) (i : Instr), (i = .enc10 ∨ i = .req10) →
    (s.cnt.toNat ≤ 123 → ∃ (values : List Word) (d : Nat), values.length = s.cnt.toNat ∧
      (∀ k v, k < s.cnt.toNat → s.wb.read? k = some v → values[k]? = some v) ∧
      (s.wb.written 0 s.cnt.toNat = true → d = s.draws) ∧
      ∀ (F : List Byte), F = [s.unit, 0x10, hi8 s.reg, lo8 s.reg, 0x00, lo8 s.cnt, BitVec.ofNat 8 (2 * s.cnt.toNat)]
          ++ values.flatMap (fun v => [hi8 v, lo8 v]) →
        exec i s = .next { s with fb := s.fb.writes 0 (F ++ [lo8 (crc16 F), hi8 (crc16 F)]),
                                  flen := BitVec.ofNat 16 (9 + 2 * s.cnt.toNat), status := Status.okFrame.code,
                                  draws := d }) ∧
    (123 < s.cnt.toNat → exec i s = .next { s with status := Status.errParam.code })

/-- Every encode command that ends with `OK_FRAME` has put the address, its function code, a payload and the trailer
into `FB` from `FB[0]` on and the length into `FLEN`, and has left every cell at and above `FLEN` and all other state
as it was (41_encode.md R110). -/
def Obligations.EncodersPlaceAddressFunctionTrailer : Prop :=
  ∀ (i : Instr) (s t : State), (i = .enc03 ∨ i = .enc06 ∨ i = .enc10) → exec i s = .next t →
    t.status = Status.okFrame.code →
    ∃ payload : List Byte,
      t.holdsFrame (withTrailer (s.unit :: encode i :: payload)) = true ∧
      (∀ a, t.flen.toNat ≤ a → t.fb.read? a = s.fb.read? a) ∧
      t = { s with fb := t.fb, flen := t.flen, status := t.status, draws := t.draws }

/-- After any encode command that ends with `OK_FRAME`, `CRC` gives zero (41_encode.md R119). -/
def Obligations.BuiltFramesHaveZeroResidue : Prop :=
  ∀ (i : Instr) (s t : State), (i = .enc03 ∨ i = .enc06 ∨ i = .enc10) → exec i s = .next t →
    t.status = Status.okFrame.code → exec .crc t = .next { t with crcv := 0x0000, status := Status.okCrc.code }

/-- `DEC` on a frame just built: an `ENC06` frame decodes as its own acknowledgement with its fields recovered; an
`ENC03` or `ENC10` frame passes the length, address and CRC checks and is always malformed (41_encode.md R118). -/
def Obligations.DecodeOfBuiltRequest : Prop :=
  ∀ s t : State,
    (exec .enc06 s = .next t →
      exec .dec t = .next { t with ackfc := 0x06, ackreg := s.reg, ackdat := s.val, status := Status.okWriteack.code }) ∧
    (exec .enc03 s = .next t → exec .dec t = .next { t with status := Status.errMalformed.code }) ∧
    (exec .enc10 s = .next t → t.status = Status.okFrame.code →
      exec .dec t = .next { t with status := Status.errMalformed.code })

/-! ## Decode command and response formats -/

/-- `FLEN` above 256 is `ERR_PARAM` before anything else, for `DEC` (42_decode.md R131). That each response format's row
does the same is the model's choice (log entry 5). -/
def Obligations.OverlongFrameIsParameterError : Prop :=
  ∀ (s : State) (i : Instr), (i = .dec ∨ i.space = .rsp) → 256 < s.flen.toNat →
    exec i s = .next { s with status := Status.errParam.code }

/-- `FLEN` below 4 is `ERR_SHORT`, and `FB` is not read, for `DEC` (42_decode.md R132). That each response format's row
does the same is the model's choice (log entry 5). -/
def Obligations.ShortFrameIsRejectedUnread : Prop :=
  ∀ (s : State) (i : Instr), (i = .dec ∨ i.space = .rsp) → s.flen.toNat < 4 →
    exec i s = .next { s with status := Status.errShort.code }

/-- A first byte that differs from `UNIT` is `ERR_ADDR`, whatever follows it, for `DEC` (42_decode.md R133). That each
response format's row does the same is the model's choice (log entry 5). An unwritten `FB[0]` is a free value, on which
nothing is said here. -/
def Obligations.WrongAddressIsRejectedFirst : Prop :=
  ∀ (s : State) (i : Instr) (a : Byte), (i = .dec ∨ i.space = .rsp) → 4 ≤ s.flen.toNat → s.flen.toNat ≤ 256 →
    s.fb.read? 0 = some a → a ≠ s.unit → exec i s = .next { s with status := Status.errAddr.code }

/-- The trailer must be the CRC of all bytes before it, low byte first, else `ERR_CRC` and nothing of the frame is kept;
with a right trailer no check before the payload fails (42_decode.md R134, for `DEC`). That each response format's row
does the same is the model's choice (log entry 5). -/
def Obligations.TrailerDecidesCrcError : Prop :=
  ∀ (s : State) (i : Instr) (fc : Byte) (payload : List Byte) (x y : Byte), (i = .dec ∨ i.space = .rsp) →
    s.holdsFrame ((s.unit :: fc :: payload) ++ [x, y]) = true →
    ((x ≠ lo8 (crc16 (s.unit :: fc :: payload)) ∨ y ≠ hi8 (crc16 (s.unit :: fc :: payload))) →
      exec i s = .next { s with status := Status.errCrc.code }) ∧
    ((x = lo8 (crc16 (s.unit :: fc :: payload)) ∧ y = hi8 (crc16 (s.unit :: fc :: payload))) →
      ∃ t, exec i s = .next t ∧ t.status ≠ Status.errParam.code ∧ t.status ≠ Status.errShort.code ∧
        t.status ≠ Status.errAddr.code ∧ t.status ≠ Status.errCrc.code)

/-- An exception response with exactly one payload byte leaves it in `EXC`, whatever bits 6..0 of the function code
are; with any other payload it is malformed (42_decode.md R135, for `DEC`). That the row `RSPEXC`, with any unexamined
bits, does the same is the model's choice (log entry 5). -/
def Obligations.ExceptionResponseGivesItsCode : Prop :=
  ∀ (s : State) (i : Instr) (fc : Byte) (payload : List Byte), (i = .dec ∨ ∃ low, i = .rspexc low) →
    fc.getLsbD 7 = true → s.holdsFrame (s.goodFrame fc payload) = true →
    (∀ code, payload = [code] → exec i s = .next { s with exc := code, status := Status.okException.code }) ∧
    (payload.length ≠ 1 → exec i s = .next { s with status := Status.errMalformed.code })

/-- A read response parses exactly when its byte count equals both `2 * CNT`, compared as integers, and the number of
data bytes (42_decode.md R137); then `RB` holds the registers, high byte first, in order, `RCNT` is `CNT`, and the
cells of `RB` at and above `CNT` keep their values (R138). Both rules speak of `DEC`; that the row `RSP03` does the same
is the model's choice (log entry 5). -/
def Obligations.ReadResponseFillsRegisters : Prop :=
  ∀ (s : State) (i : Instr) (payload : List Byte), (i = .dec ∨ i = .rsp03) →
    s.holdsFrame (s.goodFrame 0x03 payload) = true →
    (payload = [] → exec i s = .next { s with status := Status.errMalformed.code }) ∧
    ∀ bc data, payload = bc :: data →
      ((bc.toNat = 2 * s.cnt.toNat ∧ data.length = bc.toNat) →
        s.cnt.toNat ≤ 125 ∧ ∃ t, exec i s = .next t ∧
          t = { s with rb := t.rb, rcnt := BitVec.ofNat 8 s.cnt.toNat, status := Status.okRegisters.code } ∧
          (∀ k, k < s.cnt.toNat → ∃ h l, data[2 * k]? = some h ∧ data[2 * k + 1]? = some l ∧
            t.rb.read? k = some (be16 h l)) ∧
          (∀ k, s.cnt.toNat ≤ k → t.rb.read? k = s.rb.read? k)) ∧
      (¬ (bc.toNat = 2 * s.cnt.toNat ∧ data.length = bc.toNat) →
        exec i s = .next { s with status := Status.errMalformed.code })

/-- A write acknowledgement, function 0x06 or 0x10, parses exactly when its payload has four bytes; its function code
and its two fields, high byte first, are left in `ACKFC`, `ACKREG`, `ACKDAT` and are compared with nothing
(42_decode.md R140, R141, for `DEC`). That the rows `RSP06` and `RSP10` do the same is the model's choice (log entry 5). -/
def Obligations.AcknowledgementExposesItsFields : Prop :=
  ∀ (s : State) (i : Instr) (fc : Byte) (payload : List Byte),
    ((i = .dec ∧ (fc = 0x06 ∨ fc = 0x10)) ∨ (i = .rsp06 ∧ fc = 0x06) ∨ (i = .rsp10 ∧ fc = 0x10)) →
    s.holdsFrame (s.goodFrame fc payload) = true →
    (∀ r0 r1 d0 d1, payload = [r0, r1, d0, d1] →
      exec i s = .next { s with ackfc := fc, ackreg := be16 r0 r1, ackdat := be16 d0 d1,
                                status := Status.okWriteack.code }) ∧
    (payload.length ≠ 4 → exec i s = .next { s with status := Status.errMalformed.code })

/-- For `DEC` a function code with bit 7 clear that is none of 0x03, 0x06, 0x10 is malformed (42_decode.md R142). For the
row of a response format every function code but its own is malformed, also one that selects another listed format:
that is the model's choice (log entry 5). -/
def Obligations.OtherFunctionCodesAreMalformed : Prop :=
  ∀ (s : State) (i : Instr) (fc : Byte) (payload : List Byte), s.holdsFrame (s.goodFrame fc payload) = true →
    ((i = .dec ∨ i.space = .rsp) ∧ fc.getLsbD 7 = false ∧ fc ≠ 0x03 ∧ fc ≠ 0x06 ∧ fc ≠ 0x10 →
      exec i s = .next { s with status := Status.errMalformed.code }) ∧
    ((i = .rsp03 ∧ fc ≠ 0x03) ∨ (i = .rsp06 ∧ fc ≠ 0x06) ∨ (i = .rsp10 ∧ fc ≠ 0x10) ∨
        (∃ low, i = .rspexc low ∧ fc.getLsbD 7 = false) →
      exec i s = .next { s with status := Status.errMalformed.code })

/-- `DEC` ends every operand state with a next state and a status of its own list (42_decode.md R130). That it does so
on unwritten cells of the frame too is the model's choice (log entry 1), and so are the response formats' rows with
their lists of statuses (log entry 5). -/
def Obligations.DecodeIsTotal : Prop :=
  ∀ (s : State) (i : Instr), (i = .dec ∨ i.space = .rsp) →
    ∃ t, exec i s = .next t ∧ ∃ st ∈ Instr.outcomes i, t.status = st.code

/-- What `DEC` writes by outcome: on an error `STATUS` alone, on a success the result group of that status alone
(42_decode.md R144). -/
def Obligations.DecodeWritesOneResultGroup : Prop :=
  ∀ s t : State, exec .dec s = .next t →
    (t.status.getLsbD 3 = true → t = { s with status := t.status, draws := t.draws }) ∧
    (t.status = Status.okRegisters.code →
      t = { s with rb := t.rb, rcnt := t.rcnt, status := t.status, draws := t.draws }) ∧
    (t.status = Status.okException.code → t = { s with exc := t.exc, status := t.status, draws := t.draws }) ∧
    (t.status = Status.okWriteack.code →
      t = { s with ackfc := t.ackfc, ackreg := t.ackreg, ackdat := t.ackdat, status := t.status, draws := t.draws })

/-- `DEC` parses by the function code found in the frame and by nothing else (30_encoding.md R81; 42_decode.md R136): it
does what that format's row does. What a row does is the model's choice (log entry 5). -/
def Obligations.DecodeFollowsTheFunctionCode : Prop :=
  ∀ (s : State) (fc : Byte) (i : Instr), s.fb.read? 1 = some fc → decodeRsp fc = some i → exec .dec s = exec i s

/-- The frame lengths that the buffers admit (20_memory.md R65). -/
def Obligations.FrameLengthsOfEachFormat : Prop :=
  ∀ s t : State,
    ((exec .enc03 s = .next t ∨ exec .enc06 s = .next t) → t.flen.toNat = 8) ∧
    (exec .enc10 s = .next t →
      (s.cnt.toNat ≤ 123 → t.flen.toNat = 9 + 2 * s.cnt.toNat) ∧
      (123 < s.cnt.toNat → t.status = Status.errParam.code)) ∧
    (exec .dec s = .next t →
      (t.status = Status.okRegisters.code →
        s.flen.toNat = 5 + 2 * t.rcnt.toNat ∧ t.rcnt.toNat ≤ 125 ∧ t.rcnt.toNat = s.cnt.toNat) ∧
      (t.status = Status.okException.code → s.flen.toNat = 5) ∧
      (t.status = Status.okWriteack.code → s.flen.toNat = 8) ∧
      (s.flen.toNat = 256 → t.status = Status.errAddr.code ∨ t.status = Status.errCrc.code ∨
        t.status = Status.errMalformed.code))

/-! ## Sensor decode -/

/-- `FTD` with 6 registers or more writes the six channels of `RB[0..5]`, divided by 100 or 1000 by position, and
nothing else; with fewer it is `ERR_INSUFFICIENT` and `FT` is unchanged (43_sensor_decode.md R160, R161, R165). That it
also runs on cells of `RB` not written since reset, each a free value, is the model's choice (log entry 1). -/
def Obligations.SensorDecodeScalesSixRegisters : Prop :=
  ∀ s : State,
    (s.rcnt.toNat < 6 → exec .ftd s = .next { s with status := Status.errInsufficient.code }) ∧
    (6 ≤ s.rcnt.toNat → ∃ t, exec .ftd s = .next t ∧
      t = { s with ft := t.ft, status := Status.okSample.code, draws := t.draws } ∧
      (s.rb.written 0 6 = true → t.draws = s.draws) ∧
      (∀ k, k < 6 → ∃ v : Word, (∀ u, s.rb.read? k = some u → v = u) ∧
        t.ft.read? k = some (flt (if v.toNat ≤ 0x7FFF then v.toNat else (v.toNat : Int) - 65536)
          (if k < 3 then 100 else 1000))) ∧
      (∀ k, 6 ≤ k → t.ft.read? k = s.ft.read? k))

/-- `flt` gives a finite value nearest to the exact quotient, among all finite values of the format, and of two equally
near ones the one with an even significand; `flt(0)` is positive zero (43_sensor_decode.md R164). For quotients below
2^1023 in magnitude, which takes in every one that `FTD` forms. The format is binary64 (log entry 7). -/
def Obligations.FloatIsNearestTiesToEven : Prop :=
  (∀ den : Nat, flt 0 den = 0) ∧
  ∀ (num : Int) (den : Nat), 0 < den → num.natAbs < 2 ^ 1023 * den →
    floatFinite (flt num den) = true ∧
    ∀ p : FloatBits, floatFinite p = true →
      |floatValue (flt num den) - (num : ℚ) / den| < |floatValue p - (num : ℚ) / den| ∨
      (|floatValue (flt num den) - (num : ℚ) / den| = |floatValue p - (num : ℚ) / den| ∧
        (floatValue p = floatValue (flt num den) ∨ floatSignificand (flt num den) % 2 = 0))

/-- Every result of `FTD` is a normal number or positive zero (43_sensor_decode.md R166). -/
def Obligations.SampleIsNormalOrZero : Prop :=
  ∀ (v : Word) (i : Nat), i < 6 →
    (channelValue i v = 0 ∧ v = 0) ∨ (floatNormal (channelValue i v) = true ∧ v ≠ 0 ∧
      floatSign (channelValue i v) = v.getLsbD 15)

/-- The document's example: the six registers decode to 2.5, -3.0, 10.0, 0.5, -1.5 and 0.0, whose patterns these are
(43_sensor_decode.md R168). -/
def Obligations.DocumentExampleSample : Prop :=
  (∀ s : State, 6 ≤ s.rcnt.toNat → s.rb.holds 0 [0x00FA, 0xFED4, 0x03E8, 0x01F4, 0xFA24, 0x0000] = true →
    exec .ftd s = .next { s with
      ft := s.ft.writes 0 [0x4004000000000000, 0xC008000000000000, 0x4024000000000000, 0x3FE0000000000000,
        0xBFF8000000000000, 0x0000000000000000]
      status := Status.okSample.code }) ∧
  floatValue 0x4004000000000000 = 5 / 2 ∧ floatValue 0xC008000000000000 = -3 ∧ floatValue 0x4024000000000000 = 10 ∧
  floatValue 0x3FE0000000000000 = 1 / 2 ∧ floatValue 0xBFF8000000000000 = -3 / 2 ∧ floatValue 0x0000000000000000 = 0

/-- The corner cases of single channels (43_sensor_decode.md R169), and the same in the binary32 alternative
(95_test_vectors.md V-FTD-2 to V-FTD-5). -/
def Obligations.ChannelCornerPatterns : Prop :=
  channelValue 0 0x0000 = 0x0000000000000000 ∧ channelValue 3 0x0000 = 0x0000000000000000 ∧
  channelValue 0 0x0001 = 0x3F847AE147AE147B ∧ channelValue 3 0x0001 = 0x3F50624DD2F1A9FC ∧
  channelValue 0 0xFFFF = 0xBF847AE147AE147B ∧ channelValue 3 0xFFFF = 0xBF50624DD2F1A9FC ∧
  channelValue 0 0x7FFF = 0x40747AB851EB851F ∧ channelValue 3 0x7FFF = 0x4040622D0E560419 ∧
  channelValue 0 0x8000 = 0xC0747AE147AE147B ∧ channelValue 3 0x8000 = 0xC040624DD2F1A9FC ∧
  fltBits Config.binary32 1 100 = 0x3C23D70A ∧ fltBits Config.binary32 1 1000 = 0x3A83126F ∧
  fltBits Config.binary32 (-1) 100 = 0xBC23D70A ∧ fltBits Config.binary32 32767 100 = 0x43A3D5C3 ∧
  fltBits Config.binary32 32767 1000 = 0x42031168 ∧ fltBits Config.binary32 (-32768) 1000 = 0xC203126F

/-! ## Whole-machine rules -/

/-- A command that ends with an error status has written `STATUS` and nothing else (60_exceptions.md R190). -/
def Obligations.ErrorsWriteStatusOnly : Prop :=
  ∀ (i : Instr) (s t : State), exec i s = .next t → t.status.getLsbD 3 = true →
    t = { s with status := t.status, draws := t.draws }

/-- Which commands raise which errors, and exactly when `ERR_PARAM`, `ERR_SHORT`, `ERR_INSUFFICIENT` and `ERR_ADDR`
arise (60_exceptions.md R181, R182, R185, R187, R188). -/
def Obligations.ErrorsHaveTheirCauses : Prop :=
  ∀ (i : Instr) (s t : State), i.space = .cmd → exec i s = .next t →
    (t.status = Status.errParam.code ↔
      (i = .enc10 ∧ 123 < s.cnt.toNat) ∨ ((i = .dec ∨ i = .crc) ∧ 256 < s.flen.toNat)) ∧
    (t.status = Status.errShort.code ↔ i = .dec ∧ s.flen.toNat < 4) ∧
    (t.status = Status.errInsufficient.code ↔ i = .ftd ∧ s.rcnt.toNat < 6) ∧
    (∀ a, s.fb.read? 0 = some a → (t.status = Status.errAddr.code ↔
      i = .dec ∧ 4 ≤ s.flen.toNat ∧ s.flen.toNat ≤ 256 ∧ a ≠ s.unit)) ∧
    ((t.status = Status.errAddr.code ∨ t.status = Status.errCrc.code ∨ t.status = Status.errMalformed.code) →
      i = .dec) ∧
    t.status ≠ Status.errCmd.code ∧ t.status ≠ Status.idle.code

/-- Every command changes only what the access matrix marks w for it, and `STATUS` (10_state.md R37). The matrix lists
the six commands; what a frame format's row may change is the model's choice (log entry 5). -/
def Obligations.CommandsWriteOnlyTheirResults : Prop :=
  ∀ (i : Instr) (s t : State), exec i s = .next t → s.onlyResultsChanged i t

/-- Every cell of every buffer reads as before, except the cells of a successful command's own result: `FB` below the
new `FLEN`, `RB` below the new `RCNT`, the six cells of `FT` (10_state.md R32 to R35). -/
def Obligations.CellsOutsideTheResultAreUnchanged : Prop :=
  ∀ (i : Instr) (s t : State), exec i s = .next t → ∀ a,
    t.wb.read? a = s.wb.read? a ∧
    ((t.status ≠ Status.okFrame.code ∨ t.flen.toNat ≤ a) → t.fb.read? a = s.fb.read? a) ∧
    ((t.status ≠ Status.okRegisters.code ∨ t.rcnt.toNat ≤ a) → t.rb.read? a = s.rb.read? a) ∧
    ((t.status ≠ Status.okSample.code ∨ 6 ≤ a) → t.ft.read? a = s.ft.read? a)

/-- Every command is a pure function of the operands it names: two states that agree on them get the same status and
the same results, whatever else they hold (00_scope.md R8, 10_state.md R37). The model's choices are the operands of a
frame format's row (log entry 5), the answers on unwritten cells (log entry 1) and the count of free values drawn, on
which the states must agree (log entry 2). -/
def Obligations.ResultsDependOnOperandsOnly : Prop :=
  ∀ (i : Instr) (s s' : State), s.sameOperands i s' →
    ∃ t t', exec i s = .next t ∧ exec i s' = .next t' ∧ t.sameResults t'

/-- No command reads `STATUS`: the previous outcome makes no difference (60_exceptions.md R192). -/
def Obligations.CommandsDoNotReadStatus : Prop :=
  ∀ (i : Instr) (s : State) (x : Byte), exec i { s with status := x } = exec i s

/-- A command whose operand cells have all been written uses no free value: it reads no other cell (10_state.md R38).
Free values, the count of them, and the operand cells of a frame format's row are the model's choices (log entries 1, 2
and 5). -/
def Obligations.WrittenOperandsDrawNothing : Prop :=
  ∀ (i : Instr) (s t : State), s.operandsWritten i = true → exec i s = .next t → t.draws = s.draws

/-- A command repeated at once, none of whose operand cells is unwritten, leaves the state it left the first time
(10_state.md R36, 20_memory.md R57). -/
def Obligations.RepeatedCommandChangesNothing : Prop :=
  ∀ (i : Instr) (s t : State), s.buffersWf = true → s.operandsWritten i = true → exec i s = .next t →
    exec i t = .next t

/-- After a `DEC` that ended with anything but `OK_REGISTERS`, an error or another success, `RB` and `RCNT` hold the
registers of the read before it and `FTD` decodes those, with `OK_SAMPLE` if there are six: the stale-data hazard
(70_reset_and_hazards.md R218, R215). -/
def Obligations.FailedDecodeLeavesOldRegisters : Prop :=
  ∀ s t : State, exec .dec s = .next t → t.status ≠ Status.okRegisters.code →
    t.rb = s.rb ∧ t.rcnt = s.rcnt ∧
    (∃ u v, exec .ftd t = .next u ∧ exec .ftd { s with draws := t.draws } = .next v ∧
      u.status = v.status ∧ u.ft = v.ft ∧ u.draws = v.draws ∧
      (6 ≤ s.rcnt.toNat → u.status = Status.okSample.code)) ∧
    (t.status.getLsbD 3 = true → exec .ftd t = exec .ftd { s with draws := t.draws })

/-- The comparison of an acknowledgement with what was sent is the firmware's: after a write-single request it accepts
exactly when function 0x06 echoes address and value, after a write-multiple request exactly when function 0x10 echoes
address and count; an acknowledgement of the wrong kind for the request is ProtocolError (60_exceptions.md R196;
42_decode.md R141). The firmware's mapping as a function is log entry 14 (DEDUCED); that a wrong kind, or a mismatched
echo of 0x10, is ProtocolError is the spec's own reading (R196). -/
def Obligations.FirmwareComparesTheEcho : Prop :=
  ∀ (s : State) (fc r0 r1 d0 d1 : Byte), (fc = 0x06 ∨ fc = 0x10) →
    s.holdsFrame (s.goodFrame fc [r0, r1, d0, d1]) = true →
    ∃ t, exec .dec s = .next t ∧
      (clientResult .writeSingleRegister t = some .acknowledged ↔
        fc = 0x06 ∧ be16 r0 r1 = s.reg ∧ be16 d0 d1 = s.val) ∧
      (clientResult .writeMultipleRegisters t = some .acknowledged ↔
        fc = 0x10 ∧ be16 r0 r1 = s.reg ∧ be16 d0 d1 = s.cnt) ∧
      (¬ (fc = 0x06 ∧ be16 r0 r1 = s.reg ∧ be16 d0 d1 = s.val) →
        clientResult .writeSingleRegister t = some .protocolError) ∧
      (¬ (fc = 0x10 ∧ be16 r0 r1 = s.reg ∧ be16 d0 d1 = s.cnt) →
        clientResult .writeMultipleRegisters t = some .protocolError) ∧
      clientResult .readHoldingRegisters t = some .protocolError

/-! ## The invariant -/

/-- The state after reset meets the invariant. -/
def Obligations.ResetMeetsTheInvariant : Prop := State.reset.Inv

/-- Every step keeps the invariant: buffers in canonical form and within their sizes (20_memory.md R50), `STATUS` one
of the fourteen codes and an outcome of the code in `CMD` (10_state.md R25), `ACKFC` a function code of an
acknowledgement (R30), `FT` written as a whole and finite (R35; 43_sensor_decode.md R166). -/
def Obligations.EveryStepKeepsTheInvariant : Prop := ∀ s t : State, s.Inv → step s = .next t → t.Inv

/-- The fourteen values of `STATUS`; no two statuses share one, and the error statuses are exactly those with bit 3 set
(10_state.md R25). -/
def Obligations.StatusCodesAreDistinct : Prop :=
  (Status.idle.code = 0x00 ∧ Status.okFrame.code = 0x01 ∧ Status.okRegisters.code = 0x02 ∧
    Status.okWriteack.code = 0x03 ∧ Status.okException.code = 0x04 ∧ Status.okSample.code = 0x05 ∧
    Status.okCrc.code = 0x06 ∧ Status.errShort.code = 0x08 ∧ Status.errAddr.code = 0x09 ∧ Status.errCrc.code = 0x0A ∧
    Status.errMalformed.code = 0x0B ∧ Status.errInsufficient.code = 0x0C ∧ Status.errParam.code = 0x0D ∧
    Status.errCmd.code = 0x0E) ∧
  (∀ st st' : Status, st.code = st'.code → st = st') ∧
  (∀ st : Status, st.code.getLsbD 3 = true ↔ st = .errShort ∨ st = .errAddr ∨ st = .errCrc ∨ st = .errMalformed ∨
    st = .errInsufficient ∨ st = .errParam ∨ st = .errCmd)
end

