-- ==== Sys2Proof/Laws/State.lean ====
section
/-! SUPPORT. One lemma per field per named update of the state: no proof unfolds a record update. -/

namespace Sys2Proof.Machine

variable (s : State)

@[simp] theorem raise_eq_setStatus (st : Status) : raise st s = s.setStatus st := rfl
@[simp] theorem done_eq_setStatus (st : Status) : done st s = s.setStatus st := rfl

@[simp] theorem State.setStatus_cmd (st : Status) : (s.setStatus st).cmd = s.cmd := rfl
@[simp] theorem State.setStatus_status (st : Status) : (s.setStatus st).status = st.code := rfl
@[simp] theorem State.setStatus_unit (st : Status) : (s.setStatus st).unit = s.unit := rfl
@[simp] theorem State.setStatus_reg (st : Status) : (s.setStatus st).reg = s.reg := rfl
@[simp] theorem State.setStatus_cnt (st : Status) : (s.setStatus st).cnt = s.cnt := rfl
@[simp] theorem State.setStatus_val (st : Status) : (s.setStatus st).val = s.val := rfl
@[simp] theorem State.setStatus_flen (st : Status) : (s.setStatus st).flen = s.flen := rfl
@[simp] theorem State.setStatus_rcnt (st : Status) : (s.setStatus st).rcnt = s.rcnt := rfl
@[simp] theorem State.setStatus_exc (st : Status) : (s.setStatus st).exc = s.exc := rfl
@[simp] theorem State.setStatus_ackfc (st : Status) : (s.setStatus st).ackfc = s.ackfc := rfl
@[simp] theorem State.setStatus_ackreg (st : Status) : (s.setStatus st).ackreg = s.ackreg := rfl
@[simp] theorem State.setStatus_ackdat (st : Status) : (s.setStatus st).ackdat = s.ackdat := rfl
@[simp] theorem State.setStatus_crcv (st : Status) : (s.setStatus st).crcv = s.crcv := rfl
@[simp] theorem State.setStatus_fb (st : Status) : (s.setStatus st).fb = s.fb := rfl
@[simp] theorem State.setStatus_wb (st : Status) : (s.setStatus st).wb = s.wb := rfl
@[simp] theorem State.setStatus_rb (st : Status) : (s.setStatus st).rb = s.rb := rfl
@[simp] theorem State.setStatus_ft (st : Status) : (s.setStatus st).ft = s.ft := rfl
@[simp] theorem State.setStatus_draws (st : Status) : (s.setStatus st).draws = s.draws := rfl
@[simp] theorem State.setStatus_pending (st : Status) : (s.setStatus st).pending = s.pending := rfl
@[simp] theorem State.setStatus_replies (st : Status) : (s.setStatus st).replies = s.replies := rfl

@[simp] theorem State.setDraws_cmd (d : Nat) : (s.setDraws d).cmd = s.cmd := rfl
@[simp] theorem State.setDraws_status (d : Nat) : (s.setDraws d).status = s.status := rfl
@[simp] theorem State.setDraws_unit (d : Nat) : (s.setDraws d).unit = s.unit := rfl
@[simp] theorem State.setDraws_reg (d : Nat) : (s.setDraws d).reg = s.reg := rfl
@[simp] theorem State.setDraws_cnt (d : Nat) : (s.setDraws d).cnt = s.cnt := rfl
@[simp] theorem State.setDraws_val (d : Nat) : (s.setDraws d).val = s.val := rfl
@[simp] theorem State.setDraws_flen (d : Nat) : (s.setDraws d).flen = s.flen := rfl
@[simp] theorem State.setDraws_rcnt (d : Nat) : (s.setDraws d).rcnt = s.rcnt := rfl
@[simp] theorem State.setDraws_exc (d : Nat) : (s.setDraws d).exc = s.exc := rfl
@[simp] theorem State.setDraws_ackfc (d : Nat) : (s.setDraws d).ackfc = s.ackfc := rfl
@[simp] theorem State.setDraws_ackreg (d : Nat) : (s.setDraws d).ackreg = s.ackreg := rfl
@[simp] theorem State.setDraws_ackdat (d : Nat) : (s.setDraws d).ackdat = s.ackdat := rfl
@[simp] theorem State.setDraws_crcv (d : Nat) : (s.setDraws d).crcv = s.crcv := rfl
@[simp] theorem State.setDraws_fb (d : Nat) : (s.setDraws d).fb = s.fb := rfl
@[simp] theorem State.setDraws_wb (d : Nat) : (s.setDraws d).wb = s.wb := rfl
@[simp] theorem State.setDraws_rb (d : Nat) : (s.setDraws d).rb = s.rb := rfl
@[simp] theorem State.setDraws_ft (d : Nat) : (s.setDraws d).ft = s.ft := rfl
@[simp] theorem State.setDraws_draws (d : Nat) : (s.setDraws d).draws = d := rfl
@[simp] theorem State.setDraws_pending (d : Nat) : (s.setDraws d).pending = s.pending := rfl
@[simp] theorem State.setDraws_replies (d : Nat) : (s.setDraws d).replies = s.replies := rfl

@[simp] theorem State.setCrcv_cmd (v : Word) : (s.setCrcv v).cmd = s.cmd := rfl
@[simp] theorem State.setCrcv_status (v : Word) : (s.setCrcv v).status = s.status := rfl
@[simp] theorem State.setCrcv_unit (v : Word) : (s.setCrcv v).unit = s.unit := rfl
@[simp] theorem State.setCrcv_reg (v : Word) : (s.setCrcv v).reg = s.reg := rfl
@[simp] theorem State.setCrcv_cnt (v : Word) : (s.setCrcv v).cnt = s.cnt := rfl
@[simp] theorem State.setCrcv_val (v : Word) : (s.setCrcv v).val = s.val := rfl
@[simp] theorem State.setCrcv_flen (v : Word) : (s.setCrcv v).flen = s.flen := rfl
@[simp] theorem State.setCrcv_rcnt (v : Word) : (s.setCrcv v).rcnt = s.rcnt := rfl
@[simp] theorem State.setCrcv_exc (v : Word) : (s.setCrcv v).exc = s.exc := rfl
@[simp] theorem State.setCrcv_ackfc (v : Word) : (s.setCrcv v).ackfc = s.ackfc := rfl
@[simp] theorem State.setCrcv_ackreg (v : Word) : (s.setCrcv v).ackreg = s.ackreg := rfl
@[simp] theorem State.setCrcv_ackdat (v : Word) : (s.setCrcv v).ackdat = s.ackdat := rfl
@[simp] theorem State.setCrcv_crcv (v : Word) : (s.setCrcv v).crcv = v := rfl
@[simp] theorem State.setCrcv_fb (v : Word) : (s.setCrcv v).fb = s.fb := rfl
@[simp] theorem State.setCrcv_wb (v : Word) : (s.setCrcv v).wb = s.wb := rfl
@[simp] theorem State.setCrcv_rb (v : Word) : (s.setCrcv v).rb = s.rb := rfl
@[simp] theorem State.setCrcv_ft (v : Word) : (s.setCrcv v).ft = s.ft := rfl
@[simp] theorem State.setCrcv_draws (v : Word) : (s.setCrcv v).draws = s.draws := rfl
@[simp] theorem State.setCrcv_pending (v : Word) : (s.setCrcv v).pending = s.pending := rfl
@[simp] theorem State.setCrcv_replies (v : Word) : (s.setCrcv v).replies = s.replies := rfl

@[simp] theorem State.placeFrame_cmd (f : List Byte) : (s.placeFrame f).cmd = s.cmd := rfl
@[simp] theorem State.placeFrame_status (f : List Byte) : (s.placeFrame f).status = s.status := rfl
@[simp] theorem State.placeFrame_unit (f : List Byte) : (s.placeFrame f).unit = s.unit := rfl
@[simp] theorem State.placeFrame_reg (f : List Byte) : (s.placeFrame f).reg = s.reg := rfl
@[simp] theorem State.placeFrame_cnt (f : List Byte) : (s.placeFrame f).cnt = s.cnt := rfl
@[simp] theorem State.placeFrame_val (f : List Byte) : (s.placeFrame f).val = s.val := rfl
@[simp] theorem State.placeFrame_flen (f : List Byte) : (s.placeFrame f).flen = BitVec.ofNat 16 f.length := rfl
@[simp] theorem State.placeFrame_rcnt (f : List Byte) : (s.placeFrame f).rcnt = s.rcnt := rfl
@[simp] theorem State.placeFrame_exc (f : List Byte) : (s.placeFrame f).exc = s.exc := rfl
@[simp] theorem State.placeFrame_ackfc (f : List Byte) : (s.placeFrame f).ackfc = s.ackfc := rfl
@[simp] theorem State.placeFrame_ackreg (f : List Byte) : (s.placeFrame f).ackreg = s.ackreg := rfl
@[simp] theorem State.placeFrame_ackdat (f : List Byte) : (s.placeFrame f).ackdat = s.ackdat := rfl
@[simp] theorem State.placeFrame_crcv (f : List Byte) : (s.placeFrame f).crcv = s.crcv := rfl
@[simp] theorem State.placeFrame_fb (f : List Byte) : (s.placeFrame f).fb = s.fb.writes 0 f := rfl
@[simp] theorem State.placeFrame_wb (f : List Byte) : (s.placeFrame f).wb = s.wb := rfl
@[simp] theorem State.placeFrame_rb (f : List Byte) : (s.placeFrame f).rb = s.rb := rfl
@[simp] theorem State.placeFrame_ft (f : List Byte) : (s.placeFrame f).ft = s.ft := rfl
@[simp] theorem State.placeFrame_draws (f : List Byte) : (s.placeFrame f).draws = s.draws := rfl
@[simp] theorem State.placeFrame_pending (f : List Byte) : (s.placeFrame f).pending = s.pending := rfl
@[simp] theorem State.placeFrame_replies (f : List Byte) : (s.placeFrame f).replies = s.replies := rfl

@[simp] theorem State.setExc_cmd (c : Byte) : (s.setExc c).cmd = s.cmd := rfl
@[simp] theorem State.setExc_status (c : Byte) : (s.setExc c).status = s.status := rfl
@[simp] theorem State.setExc_unit (c : Byte) : (s.setExc c).unit = s.unit := rfl
@[simp] theorem State.setExc_reg (c : Byte) : (s.setExc c).reg = s.reg := rfl
@[simp] theorem State.setExc_cnt (c : Byte) : (s.setExc c).cnt = s.cnt := rfl
@[simp] theorem State.setExc_val (c : Byte) : (s.setExc c).val = s.val := rfl
@[simp] theorem State.setExc_flen (c : Byte) : (s.setExc c).flen = s.flen := rfl
@[simp] theorem State.setExc_rcnt (c : Byte) : (s.setExc c).rcnt = s.rcnt := rfl
@[simp] theorem State.setExc_exc (c : Byte) : (s.setExc c).exc = c := rfl
@[simp] theorem State.setExc_ackfc (c : Byte) : (s.setExc c).ackfc = s.ackfc := rfl
@[simp] theorem State.setExc_ackreg (c : Byte) : (s.setExc c).ackreg = s.ackreg := rfl
@[simp] theorem State.setExc_ackdat (c : Byte) : (s.setExc c).ackdat = s.ackdat := rfl
@[simp] theorem State.setExc_crcv (c : Byte) : (s.setExc c).crcv = s.crcv := rfl
@[simp] theorem State.setExc_fb (c : Byte) : (s.setExc c).fb = s.fb := rfl
@[simp] theorem State.setExc_wb (c : Byte) : (s.setExc c).wb = s.wb := rfl
@[simp] theorem State.setExc_rb (c : Byte) : (s.setExc c).rb = s.rb := rfl
@[simp] theorem State.setExc_ft (c : Byte) : (s.setExc c).ft = s.ft := rfl
@[simp] theorem State.setExc_draws (c : Byte) : (s.setExc c).draws = s.draws := rfl
@[simp] theorem State.setExc_pending (c : Byte) : (s.setExc c).pending = s.pending := rfl
@[simp] theorem State.setExc_replies (c : Byte) : (s.setExc c).replies = s.replies := rfl

@[simp] theorem State.setRegisters_cmd (vs : List Word) : (s.setRegisters vs).cmd = s.cmd := rfl
@[simp] theorem State.setRegisters_status (vs : List Word) : (s.setRegisters vs).status = s.status := rfl
@[simp] theorem State.setRegisters_unit (vs : List Word) : (s.setRegisters vs).unit = s.unit := rfl
@[simp] theorem State.setRegisters_reg (vs : List Word) : (s.setRegisters vs).reg = s.reg := rfl
@[simp] theorem State.setRegisters_cnt (vs : List Word) : (s.setRegisters vs).cnt = s.cnt := rfl
@[simp] theorem State.setRegisters_val (vs : List Word) : (s.setRegisters vs).val = s.val := rfl
@[simp] theorem State.setRegisters_flen (vs : List Word) : (s.setRegisters vs).flen = s.flen := rfl
@[simp] theorem State.setRegisters_rcnt (vs : List Word) : (s.setRegisters vs).rcnt = s.cnt.setWidth 8 := rfl
@[simp] theorem State.setRegisters_exc (vs : List Word) : (s.setRegisters vs).exc = s.exc := rfl
@[simp] theorem State.setRegisters_ackfc (vs : List Word) : (s.setRegisters vs).ackfc = s.ackfc := rfl
@[simp] theorem State.setRegisters_ackreg (vs : List Word) : (s.setRegisters vs).ackreg = s.ackreg := rfl
@[simp] theorem State.setRegisters_ackdat (vs : List Word) : (s.setRegisters vs).ackdat = s.ackdat := rfl
@[simp] theorem State.setRegisters_crcv (vs : List Word) : (s.setRegisters vs).crcv = s.crcv := rfl
@[simp] theorem State.setRegisters_fb (vs : List Word) : (s.setRegisters vs).fb = s.fb := rfl
@[simp] theorem State.setRegisters_wb (vs : List Word) : (s.setRegisters vs).wb = s.wb := rfl
@[simp] theorem State.setRegisters_rb (vs : List Word) : (s.setRegisters vs).rb = s.rb.writes 0 vs := rfl
@[simp] theorem State.setRegisters_ft (vs : List Word) : (s.setRegisters vs).ft = s.ft := rfl
@[simp] theorem State.setRegisters_draws (vs : List Word) : (s.setRegisters vs).draws = s.draws := rfl
@[simp] theorem State.setRegisters_pending (vs : List Word) : (s.setRegisters vs).pending = s.pending := rfl
@[simp] theorem State.setRegisters_replies (vs : List Word) : (s.setRegisters vs).replies = s.replies := rfl

@[simp] theorem State.setAck_cmd (c : Byte) (r d : Word) : (s.setAck c r d).cmd = s.cmd := rfl
@[simp] theorem State.setAck_status (c : Byte) (r d : Word) : (s.setAck c r d).status = s.status := rfl
@[simp] theorem State.setAck_unit (c : Byte) (r d : Word) : (s.setAck c r d).unit = s.unit := rfl
@[simp] theorem State.setAck_reg (c : Byte) (r d : Word) : (s.setAck c r d).reg = s.reg := rfl
@[simp] theorem State.setAck_cnt (c : Byte) (r d : Word) : (s.setAck c r d).cnt = s.cnt := rfl
@[simp] theorem State.setAck_val (c : Byte) (r d : Word) : (s.setAck c r d).val = s.val := rfl
@[simp] theorem State.setAck_flen (c : Byte) (r d : Word) : (s.setAck c r d).flen = s.flen := rfl
@[simp] theorem State.setAck_rcnt (c : Byte) (r d : Word) : (s.setAck c r d).rcnt = s.rcnt := rfl
@[simp] theorem State.setAck_exc (c : Byte) (r d : Word) : (s.setAck c r d).exc = s.exc := rfl
@[simp] theorem State.setAck_ackfc (c : Byte) (r d : Word) : (s.setAck c r d).ackfc = c := rfl
@[simp] theorem State.setAck_ackreg (c : Byte) (r d : Word) : (s.setAck c r d).ackreg = r := rfl
@[simp] theorem State.setAck_ackdat (c : Byte) (r d : Word) : (s.setAck c r d).ackdat = d := rfl
@[simp] theorem State.setAck_crcv (c : Byte) (r d : Word) : (s.setAck c r d).crcv = s.crcv := rfl
@[simp] theorem State.setAck_fb (c : Byte) (r d : Word) : (s.setAck c r d).fb = s.fb := rfl
@[simp] theorem State.setAck_wb (c : Byte) (r d : Word) : (s.setAck c r d).wb = s.wb := rfl
@[simp] theorem State.setAck_rb (c : Byte) (r d : Word) : (s.setAck c r d).rb = s.rb := rfl
@[simp] theorem State.setAck_ft (c : Byte) (r d : Word) : (s.setAck c r d).ft = s.ft := rfl
@[simp] theorem State.setAck_draws (c : Byte) (r d : Word) : (s.setAck c r d).draws = s.draws := rfl
@[simp] theorem State.setAck_pending (c : Byte) (r d : Word) : (s.setAck c r d).pending = s.pending := rfl
@[simp] theorem State.setAck_replies (c : Byte) (r d : Word) : (s.setAck c r d).replies = s.replies := rfl

@[simp] theorem State.setSample_cmd (cs : List FloatBits) : (s.setSample cs).cmd = s.cmd := rfl
@[simp] theorem State.setSample_status (cs : List FloatBits) : (s.setSample cs).status = s.status := rfl
@[simp] theorem State.setSample_unit (cs : List FloatBits) : (s.setSample cs).unit = s.unit := rfl
@[simp] theorem State.setSample_reg (cs : List FloatBits) : (s.setSample cs).reg = s.reg := rfl
@[simp] theorem State.setSample_cnt (cs : List FloatBits) : (s.setSample cs).cnt = s.cnt := rfl
@[simp] theorem State.setSample_val (cs : List FloatBits) : (s.setSample cs).val = s.val := rfl
@[simp] theorem State.setSample_flen (cs : List FloatBits) : (s.setSample cs).flen = s.flen := rfl
@[simp] theorem State.setSample_rcnt (cs : List FloatBits) : (s.setSample cs).rcnt = s.rcnt := rfl
@[simp] theorem State.setSample_exc (cs : List FloatBits) : (s.setSample cs).exc = s.exc := rfl
@[simp] theorem State.setSample_ackfc (cs : List FloatBits) : (s.setSample cs).ackfc = s.ackfc := rfl
@[simp] theorem State.setSample_ackreg (cs : List FloatBits) : (s.setSample cs).ackreg = s.ackreg := rfl
@[simp] theorem State.setSample_ackdat (cs : List FloatBits) : (s.setSample cs).ackdat = s.ackdat := rfl
@[simp] theorem State.setSample_crcv (cs : List FloatBits) : (s.setSample cs).crcv = s.crcv := rfl
@[simp] theorem State.setSample_fb (cs : List FloatBits) : (s.setSample cs).fb = s.fb := rfl
@[simp] theorem State.setSample_wb (cs : List FloatBits) : (s.setSample cs).wb = s.wb := rfl
@[simp] theorem State.setSample_rb (cs : List FloatBits) : (s.setSample cs).rb = s.rb := rfl
@[simp] theorem State.setSample_ft (cs : List FloatBits) : (s.setSample cs).ft = s.ft.writes 0 cs := rfl
@[simp] theorem State.setSample_draws (cs : List FloatBits) : (s.setSample cs).draws = s.draws := rfl
@[simp] theorem State.setSample_pending (cs : List FloatBits) : (s.setSample cs).pending = s.pending := rfl
@[simp] theorem State.setSample_replies (cs : List FloatBits) : (s.setSample cs).replies = s.replies := rfl

@[simp] theorem State.takeEvent_cmd (es : List Event) : (s.takeEvent es).cmd = s.cmd := rfl
@[simp] theorem State.takeEvent_status (es : List Event) : (s.takeEvent es).status = s.status := rfl
@[simp] theorem State.takeEvent_unit (es : List Event) : (s.takeEvent es).unit = s.unit := rfl
@[simp] theorem State.takeEvent_reg (es : List Event) : (s.takeEvent es).reg = s.reg := rfl
@[simp] theorem State.takeEvent_cnt (es : List Event) : (s.takeEvent es).cnt = s.cnt := rfl
@[simp] theorem State.takeEvent_val (es : List Event) : (s.takeEvent es).val = s.val := rfl
@[simp] theorem State.takeEvent_flen (es : List Event) : (s.takeEvent es).flen = s.flen := rfl
@[simp] theorem State.takeEvent_rcnt (es : List Event) : (s.takeEvent es).rcnt = s.rcnt := rfl
@[simp] theorem State.takeEvent_exc (es : List Event) : (s.takeEvent es).exc = s.exc := rfl
@[simp] theorem State.takeEvent_ackfc (es : List Event) : (s.takeEvent es).ackfc = s.ackfc := rfl
@[simp] theorem State.takeEvent_ackreg (es : List Event) : (s.takeEvent es).ackreg = s.ackreg := rfl
@[simp] theorem State.takeEvent_ackdat (es : List Event) : (s.takeEvent es).ackdat = s.ackdat := rfl
@[simp] theorem State.takeEvent_crcv (es : List Event) : (s.takeEvent es).crcv = s.crcv := rfl
@[simp] theorem State.takeEvent_fb (es : List Event) : (s.takeEvent es).fb = s.fb := rfl
@[simp] theorem State.takeEvent_wb (es : List Event) : (s.takeEvent es).wb = s.wb := rfl
@[simp] theorem State.takeEvent_rb (es : List Event) : (s.takeEvent es).rb = s.rb := rfl
@[simp] theorem State.takeEvent_ft (es : List Event) : (s.takeEvent es).ft = s.ft := rfl
@[simp] theorem State.takeEvent_draws (es : List Event) : (s.takeEvent es).draws = s.draws := rfl
@[simp] theorem State.takeEvent_pending (es : List Event) : (s.takeEvent es).pending = es := rfl
@[simp] theorem State.takeEvent_replies (es : List Event) : (s.takeEvent es).replies = s.replies := rfl

@[simp] theorem State.reply_cmd (n v : Nat) : (s.reply n v).cmd = s.cmd := rfl
@[simp] theorem State.reply_status (n v : Nat) : (s.reply n v).status = s.status := rfl
@[simp] theorem State.reply_unit (n v : Nat) : (s.reply n v).unit = s.unit := rfl
@[simp] theorem State.reply_reg (n v : Nat) : (s.reply n v).reg = s.reg := rfl
@[simp] theorem State.reply_cnt (n v : Nat) : (s.reply n v).cnt = s.cnt := rfl
@[simp] theorem State.reply_val (n v : Nat) : (s.reply n v).val = s.val := rfl
@[simp] theorem State.reply_flen (n v : Nat) : (s.reply n v).flen = s.flen := rfl
@[simp] theorem State.reply_rcnt (n v : Nat) : (s.reply n v).rcnt = s.rcnt := rfl
@[simp] theorem State.reply_exc (n v : Nat) : (s.reply n v).exc = s.exc := rfl
@[simp] theorem State.reply_ackfc (n v : Nat) : (s.reply n v).ackfc = s.ackfc := rfl
@[simp] theorem State.reply_ackreg (n v : Nat) : (s.reply n v).ackreg = s.ackreg := rfl
@[simp] theorem State.reply_ackdat (n v : Nat) : (s.reply n v).ackdat = s.ackdat := rfl
@[simp] theorem State.reply_crcv (n v : Nat) : (s.reply n v).crcv = s.crcv := rfl
@[simp] theorem State.reply_fb (n v : Nat) : (s.reply n v).fb = s.fb := rfl
@[simp] theorem State.reply_wb (n v : Nat) : (s.reply n v).wb = s.wb := rfl
@[simp] theorem State.reply_rb (n v : Nat) : (s.reply n v).rb = s.rb := rfl
@[simp] theorem State.reply_ft (n v : Nat) : (s.reply n v).ft = s.ft := rfl
@[simp] theorem State.reply_draws (n v : Nat) : (s.reply n v).draws = s.draws := rfl
@[simp] theorem State.reply_pending (n v : Nat) : (s.reply n v).pending = s.pending := rfl
@[simp] theorem State.reply_replies (n v : Nat) : (s.reply n v).replies = ⟨n, v⟩ :: s.replies := rfl

@[simp] theorem State.setDraws_self : s.setDraws s.draws = s := rfl
@[simp] theorem State.setDraws_setDraws (d e : Nat) : (s.setDraws d).setDraws e = s.setDraws e := rfl
@[simp] theorem State.setStatus_setStatus (st st' : Status) : (s.setStatus st).setStatus st' = s.setStatus st' := rfl

end Sys2Proof.Machine
end

