-- ==== Sys2Proof/Laws/Memory.lean ====
section
/-! SUPPORT. The laws of buffers: read after write, the canonical form, and what a read of written cells gives. -/

namespace Sys2Proof.Machine

variable {w : Nat}

@[simp] theorem Memory.read?_nil (i : Nat) : Memory.read? ([] : Memory w) i = none := rfl

theorem Memory.read?_write_self (m : Memory w) (i : Nat) (v : BitVec w) : (m.write i v).read? i = some v := by
  induction m with
  | nil => simp [Memory.write, Memory.read?]
  | cons c m ih =>
    obtain ⟨k, x⟩ := c
    simp only [Memory.write]
    split
    · simp [Memory.read?]
    · split
      · simp [Memory.read?]
      · simp only [Memory.read?, ih]
        rw [if_neg (by omega)]

theorem Memory.read?_write_ne (m : Memory w) {i j : Nat} (v : BitVec w) (h : j ≠ i) :
    (m.write i v).read? j = m.read? j := by
  induction m with
  | nil => simp [Memory.write, Memory.read?, Ne.symm h]
  | cons c m ih =>
    obtain ⟨k, x⟩ := c
    simp only [Memory.write]
    split
    · simp [Memory.read?, Ne.symm h]
    · split
      · subst_vars
        simp [Memory.read?, Ne.symm h]
      · simp only [Memory.read?, ih]

theorem Memory.read?_write (m : Memory w) (i j : Nat) (v : BitVec w) :
    (m.write i v).read? j = if j = i then some v else m.read? j := by
  split
  · subst_vars
    exact Memory.read?_write_self m _ v
  · exact Memory.read?_write_ne m v ‹_›

@[simp] theorem Memory.writes_nil (m : Memory w) (i : Nat) : m.writes i [] = m := rfl

@[simp] theorem Memory.writes_cons (m : Memory w) (i : Nat) (v : BitVec w) (vs : List (BitVec w)) :
    m.writes i (v :: vs) = (m.write i v).writes (i + 1) vs := rfl

/-- A read outside the written range gives what it gave before. -/
theorem Memory.read?_writes_outside (m : Memory w) (i : Nat) (vs : List (BitVec w)) {j : Nat}
    (h : j < i ∨ i + vs.length ≤ j) : (m.writes i vs).read? j = m.read? j := by
  induction vs generalizing m i with
  | nil => rfl
  | cons v vs ih =>
    simp only [List.length_cons] at h
    rw [Memory.writes_cons, ih _ _ (by omega), Memory.read?_write_ne _ _ (by omega)]

/-- A read inside the written range gives the value written. -/
theorem Memory.read?_writes_inside (m : Memory w) (i : Nat) (vs : List (BitVec w)) {k : Nat} (h : k < vs.length) :
    (m.writes i vs).read? (i + k) = some vs[k] := by
  induction vs generalizing m i k with
  | nil => simp at h
  | cons v vs ih =>
    cases k with
    | zero =>
      rw [Memory.writes_cons, Memory.read?_writes_outside _ _ _ (by omega)]
      simpa using Memory.read?_write_self m i v
    | succ k =>
      have h' : k < vs.length := by simpa using h
      have := ih (m.write i v) (i + 1) h'
      rw [Memory.writes_cons, show i + (k + 1) = i + 1 + k by omega, this]
      simp

theorem Memory.wfFrom_mono {lo lo' size : Nat} (h : lo' ≤ lo) (m : Memory w) (hm : m.wfFrom lo size = true) :
    m.wfFrom lo' size = true := by
  cases m with
  | nil => rfl
  | cons c m =>
    obtain ⟨k, x⟩ := c
    simp only [Memory.wfFrom, Bool.and_eq_true, decide_eq_true_eq] at hm ⊢
    exact ⟨⟨by omega, hm.1.2⟩, hm.2⟩

theorem Memory.wfFrom_write {lo size i : Nat} (m : Memory w) (v : BitVec w) (hm : m.wfFrom lo size = true)
    (hlo : lo ≤ i) (hi : i < size) : (m.write i v).wfFrom lo size = true := by
  induction m generalizing lo with
  | nil => simp [Memory.write, Memory.wfFrom, hlo, hi]
  | cons c m ih =>
    obtain ⟨k, x⟩ := c
    simp only [Memory.wfFrom, Bool.and_eq_true, decide_eq_true_eq] at hm
    simp only [Memory.write]
    split
    · simp only [Memory.wfFrom, Bool.and_eq_true, decide_eq_true_eq]
      exact ⟨⟨hlo, hi⟩, ⟨⟨by omega, hm.1.2⟩, hm.2⟩⟩
    · split
      · subst_vars
        simp only [Memory.wfFrom, Bool.and_eq_true, decide_eq_true_eq]
        exact ⟨⟨hlo, hi⟩, hm.2⟩
      · simp only [Memory.wfFrom, Bool.and_eq_true, decide_eq_true_eq]
        exact ⟨hm.1, ih hm.2 (by omega)⟩

/-- A write below the buffer's size keeps the canonical form. -/
theorem Memory.wf_write {size i : Nat} (m : Memory w) (v : BitVec w) (hm : m.wf size = true) (hi : i < size) :
    (m.write i v).wf size = true := Memory.wfFrom_write m v hm (Nat.zero_le _) hi

/-- A write of a range below the buffer's size keeps the canonical form. -/
theorem Memory.wf_writes {size i : Nat} (m : Memory w) (vs : List (BitVec w)) (hm : m.wf size = true)
    (hi : i + vs.length ≤ size) : (m.writes i vs).wf size = true := by
  induction vs generalizing m i with
  | nil => exact hm
  | cons v vs ih =>
    simp only [List.length_cons] at hi
    exact ih _ (Memory.wf_write m v hm (by omega)) (by omega)

theorem State.reset_buffersWf : State.reset.buffersWf = true := by decide

theorem Memory.draw_of_read? {m : Memory w} {i : Nat} {v : BitVec w} (h : m.read? i = some v) (d : Nat) :
    m.draw i d = (v, d) := by simp [Memory.draw, h]

theorem Memory.draw_of_unwritten {m : Memory w} {i : Nat} (h : m.read? i = none) (d : Nat) :
    m.draw i d = (Config.freeCell w d, d + 1) := by simp [Memory.draw, h]

@[simp] theorem Memory.drawRange_zero (m : Memory w) (i d : Nat) : m.drawRange i 0 d = ([], d) := rfl

@[simp] theorem Memory.length_drawRange (m : Memory w) (i n d : Nat) : (m.drawRange i n d).1.length = n := by
  induction n generalizing i d with
  | zero => rfl
  | succ n ih => simp [Memory.drawRange, ih]

@[simp] theorem Memory.holds_nil (m : Memory w) (i : Nat) : m.holds i [] = true := rfl

theorem Memory.holds_cons {m : Memory w} {i : Nat} {v : BitVec w} {vs : List (BitVec w)} :
    m.holds i (v :: vs) = true ↔ m.read? i = some v ∧ m.holds (i + 1) vs = true := by
  simp [Memory.holds]

/-- `holds` cell by cell. -/
theorem Memory.holds_iff {m : Memory w} {i : Nat} {vs : List (BitVec w)} :
    m.holds i vs = true ↔ ∀ k (h : k < vs.length), m.read? (i + k) = some vs[k] := by
  induction vs generalizing i with
  | nil => simp
  | cons v vs ih =>
    rw [Memory.holds_cons, ih]
    constructor
    · rintro ⟨h0, h1⟩ k hk
      cases k with
      | zero => simpa using h0
      | succ k =>
        have := h1 k (by simpa using hk)
        rw [show i + (k + 1) = i + 1 + k by omega, this]
        simp
    · intro h
      refine ⟨h 0 (Nat.zero_lt_succ _), fun k hk => ?_⟩
      have := h (k + 1) (by simpa using hk)
      rw [show i + 1 + k = i + (k + 1) by omega, this]
      simp

theorem Memory.holds_append {m : Memory w} {i : Nat} {us vs : List (BitVec w)} :
    m.holds i (us ++ vs) = true ↔ m.holds i us = true ∧ m.holds (i + us.length) vs = true := by
  induction us generalizing i with
  | nil => simp
  | cons u us ih =>
    rw [List.cons_append, Memory.holds_cons, Memory.holds_cons, ih, List.length_cons,
      show i + 1 + us.length = i + (us.length + 1) by omega, and_assoc]

/-- The cells just written are held. -/
theorem Memory.holds_writes (m : Memory w) (i : Nat) (vs : List (BitVec w)) : (m.writes i vs).holds i vs = true :=
  Memory.holds_iff.2 fun _ h => Memory.read?_writes_inside m i vs h

/-- A read of written cells gives their values and draws nothing. -/
theorem Memory.drawRange_of_holds {m : Memory w} {i : Nat} {vs : List (BitVec w)} (h : m.holds i vs = true)
    (d : Nat) : m.drawRange i vs.length d = (vs, d) := by
  induction vs generalizing i with
  | nil => rfl
  | cons v vs ih =>
    rw [Memory.holds_cons] at h
    simp [Memory.drawRange, Memory.draw_of_read? h.1, ih h.2]

/-- A read of written cells draws nothing. -/
theorem Memory.drawRange_of_written {m : Memory w} {i n : Nat} (h : m.written i n = true) (d : Nat) :
    (m.drawRange i n d).2 = d := by
  induction n generalizing i d with
  | zero => rfl
  | succ n ih =>
    simp only [Memory.written, Bool.and_eq_true, Option.isSome_iff_exists] at h
    obtain ⟨⟨v, hv⟩, hn⟩ := h
    simp [Memory.drawRange, Memory.draw_of_read? hv, ih hn]

/-- The value that a range read gives for a written cell is the cell's. -/
theorem Memory.getElem?_drawRange {m : Memory w} {i n d k : Nat} {v : BitVec w} (hk : k < n)
    (h : m.read? (i + k) = some v) : (m.drawRange i n d).1[k]? = some v := by
  induction n generalizing i d k with
  | zero => omega
  | succ n ih =>
    cases k with
    | zero => simp [Memory.drawRange, Memory.draw_of_read? (by simpa using h)]
    | succ k =>
      simp only [Memory.drawRange, List.getElem?_cons_succ]
      exact ih (by omega) (by rw [show i + 1 + k = i + (k + 1) by omega]; exact h)

/-- Buffers that agree on a range give the same reads of it. -/
theorem Memory.drawRange_congr {m m' : Memory w} {i n : Nat} (h : m.agree m' i n) (d : Nat) :
    m.drawRange i n d = m'.drawRange i n d := by
  induction n generalizing i d with
  | zero => rfl
  | succ n ih =>
    have h0 : m.draw i d = m'.draw i d := by
      have := h i (Nat.le_refl _) (by omega)
      simp only [Memory.draw, this]
    have h1 : m.agree m' (i + 1) n := fun k hk hk' => h k (by omega) (by omega)
    simp only [Memory.drawRange, h0, ih h1]

@[simp] theorem State.readCells_snd (s : State) (m : Memory w) (i n : Nat) :
    (s.readCells m i n).2 = s.setDraws (m.drawRange i n s.draws).2 := rfl

@[simp] theorem State.readCells_fst (s : State) (m : Memory w) (i n : Nat) :
    (s.readCells m i n).1 = (m.drawRange i n s.draws).1 := rfl

@[simp] theorem State.readCell_snd (s : State) (m : Memory w) (i : Nat) :
    (s.readCell m i).2 = s.setDraws (m.draw i s.draws).2 := rfl

@[simp] theorem State.readCell_fst (s : State) (m : Memory w) (i : Nat) :
    (s.readCell m i).1 = (m.draw i s.draws).1 := rfl

/-- Reading written cells gives their values and leaves the state as it is. -/
theorem State.readCells_of_holds (s : State) {m : Memory w} {i : Nat} {vs : List (BitVec w)}
    (h : m.holds i vs = true) : s.readCells m i vs.length = (vs, s) := by
  simp [State.readCells, Memory.drawRange_of_holds h]

/-- Reading a written cell gives its value and leaves the state as it is. -/
theorem State.readCell_of_read? (s : State) {m : Memory w} {i : Nat} {v : BitVec w} (h : m.read? i = some v) :
    s.readCell m i = (v, s) := by
  simp [State.readCell, Memory.draw_of_read? h]

end Sys2Proof.Machine
end

