-- ==== Sys2Proof/Laws/Operands.lean ====
section
/-! SUPPORT. The laws of byte order, and the small laws of the CRC function. -/

namespace Sys2Proof.Machine

theorem toNat_hi8 (v : Word) : (hi8 v).toNat = v.toNat / 256 % 256 := by
  simp [hi8, BitVec.extractLsb'_toNat, Nat.shiftRight_eq_div_pow]

theorem toNat_lo8 (v : Word) : (lo8 v).toNat = v.toNat % 256 := by
  simp [lo8, BitVec.extractLsb'_toNat]

theorem toNat_be16 (b0 b1 : Byte) : (be16 b0 b1).toNat = b0.toNat * 256 + b1.toNat := by
  simp only [be16, BitVec.toNat_ofNat]
  omega

@[simp] theorem hi8_be16 (b0 b1 : Byte) : hi8 (be16 b0 b1) = b0 := by
  apply BitVec.eq_of_toNat_eq
  rw [toNat_hi8, toNat_be16]
  omega

@[simp] theorem lo8_be16 (b0 b1 : Byte) : lo8 (be16 b0 b1) = b1 := by
  apply BitVec.eq_of_toNat_eq
  rw [toNat_lo8, toNat_be16]
  omega

@[simp] theorem be16_hi8_lo8 (v : Word) : be16 (hi8 v) (lo8 v) = v := by
  apply BitVec.eq_of_toNat_eq
  rw [toNat_be16, toNat_hi8, toNat_lo8]
  omega

@[simp] theorem length_bytesBe (vs : List Word) : (bytesBe vs).length = 2 * vs.length := by
  induction vs with
  | nil => rfl
  | cons v vs ih =>
    simp only [bytesBe, List.length_cons, ih]
    omega

@[simp] theorem wordsBe_bytesBe (vs : List Word) : wordsBe (bytesBe vs) = vs := by
  induction vs with
  | nil => rfl
  | cons v vs ih => simp [bytesBe, wordsBe, ih]

theorem length_wordsBe (bs : List Byte) : (wordsBe bs).length = bs.length / 2 := by
  induction bs using wordsBe.induct with
  | case1 b0 b1 bs ih =>
    simp only [wordsBe, List.length_cons, ih]
    omega
  | case2 bs h =>
    match bs with
    | [] => rfl
    | [_] => simp [wordsBe]
    | b0 :: b1 :: rest => exact (h b0 b1 rest rfl).elim

theorem crcFrom_append (c : Word) (us vs : List Byte) : crcFrom c (us ++ vs) = crcFrom (crcFrom c us) vs := by
  induction us generalizing c with
  | nil => rfl
  | cons u us ih => exact ih _

@[simp] theorem crc16_nil : crc16 [] = Config.CRC_INIT := rfl

@[simp] theorem length_trailerBytes (c : Word) : (trailerBytes c).length = 2 := rfl

@[simp] theorem length_withTrailer (body : List Byte) : (withTrailer body).length = body.length + 2 := by
  simp [withTrailer]

/-- The `k`-th value of a frame's bytes is made of the bytes `2 * k` and `2 * k + 1`. -/
theorem getElem?_wordsBe (data : List Byte) (k n : Nat) (h : data.length = 2 * n) (hk : k < n) :
    ∃ a b, data[2 * k]? = some a ∧ data[2 * k + 1]? = some b ∧ (wordsBe data)[k]? = some (be16 a b) := by
  induction n generalizing data k with
  | zero => omega
  | succ n ih =>
    match data with
    | [] => simp at h
    | [_] => simp at h; omega
    | x :: y :: data =>
      cases k with
      | zero => exact ⟨x, y, rfl, rfl, rfl⟩
      | succ k =>
        obtain ⟨a, b, h1, h2, h3⟩ := ih data k (by simp at h; omega) (by omega)
        have e : 2 * (k + 1) = 2 * k + 1 + 1 := by omega
        exact ⟨a, b, by simpa [e] using h1, by simpa [e] using h2, by simpa [wordsBe] using h3⟩

end Sys2Proof.Machine
end

