-- ==== Sys2Proof/Laws/Exec.lean ====
section
/-! SUPPORT. What each shared operation can do, said once: the checks of a received frame, the parse of a payload, the
placing of a built frame. -/

namespace Sys2Proof.Machine

/-- What the trailer check can answer. -/
theorem checkTrailer_cases (n d : Nat) (s : State) :
    (∃ e, checkTrailer n d s = .rejected .errCrc (s.setDraws e)) ∨
    (∃ fc payload e, checkTrailer n d s = .accepted fc payload (s.setDraws e) ∧ payload.length = n - 4) := by
  generalize h : checkTrailer n d s = r
  simp only [checkTrailer] at h
  split at h <;> subst h
  · exact .inl ⟨_, rfl⟩
  · exact .inr ⟨_, _, _, rfl, by simp⟩

/-- What the checks before the payload can answer. Only the draws of the state may have advanced. -/
theorem receive_cases (s : State) :
    (receive s = .rejected .errParam s ∧ 256 < s.flen.toNat) ∨
    (receive s = .rejected .errShort s ∧ s.flen.toNat < 4) ∨
    (4 ≤ s.flen.toNat ∧ s.flen.toNat ≤ 256 ∧
      ((∃ d, receive s = .rejected .errAddr (s.setDraws d)) ∨
       (∃ d, receive s = .rejected .errCrc (s.setDraws d)) ∨
       (∃ fc payload d, receive s = .accepted fc payload (s.setDraws d) ∧ payload.length = s.flen.toNat - 4))) := by
  by_cases h1 : 256 < s.flen.toNat
  · exact .inl ⟨by rw [receive, if_pos h1], h1⟩
  by_cases h2 : s.flen.toNat < 4
  · exact .inr (.inl ⟨by rw [receive, if_neg h1, if_pos h2], h2⟩)
  refine .inr (.inr ⟨by omega, by omega, ?_⟩)
  rw [receive, if_neg h1, if_neg h2]
  by_cases h3 : (s.fb.draw 0 s.draws).1 ≠ s.unit
  · exact .inl ⟨_, if_pos h3⟩
  · rw [if_neg h3]
    exact .inr (checkTrailer_cases _ _ s)

/-- The parse of an exception response: one payload byte, or malformed. -/
theorem parseException_cases (payload : List Byte) (s : State) :
    (∃ code, payload = [code] ∧ parseException payload s = (s.setExc code).setStatus .okException) ∨
    (payload.length ≠ 1 ∧ parseException payload s = s.setStatus .errMalformed) := by
  match payload with
  | [] => exact .inr ⟨by simp, rfl⟩
  | [code] => exact .inl ⟨code, rfl, rfl⟩
  | _ :: _ :: _ => exact .inr ⟨by simp, rfl⟩

/-- The parse of a read response: a byte count that is right in both ways, or malformed. -/
theorem parseRegisters_cases (payload : List Byte) (s : State) :
    (∃ bc data, payload = bc :: data ∧ bc.toNat = 2 * s.cnt.toNat ∧ data.length = bc.toNat ∧
      parseRegisters payload s = (s.setRegisters (wordsBe data)).setStatus .okRegisters) ∨
    parseRegisters payload s = s.setStatus .errMalformed := by
  match payload with
  | [] => exact .inr rfl
  | bc :: data =>
    by_cases h : bc.toNat = 2 * s.cnt.toNat ∧ data.length = bc.toNat
    · exact .inl ⟨bc, data, rfl, h.1, h.2, by simp [parseRegisters, h]⟩
    · exact .inr (by simp only [parseRegisters, if_neg h, raise_eq_setStatus])

/-- The parse of a write acknowledgement: four payload bytes, or malformed. -/
theorem parseAck_cases (fc : Byte) (payload : List Byte) (s : State) :
    (∃ r0 r1 d0 d1, payload = [r0, r1, d0, d1] ∧
      parseAck fc payload s = (s.setAck fc (be16 r0 r1) (be16 d0 d1)).setStatus .okWriteack) ∨
    (payload.length ≠ 4 ∧ parseAck fc payload s = s.setStatus .errMalformed) := by
  match payload with
  | [] => exact .inr ⟨by simp, rfl⟩
  | [_] => exact .inr ⟨by simp, rfl⟩
  | [_, _] => exact .inr ⟨by simp, rfl⟩
  | [_, _, _] => exact .inr ⟨by simp, rfl⟩
  | [r0, r1, d0, d1] => exact .inl ⟨r0, r1, d0, d1, rfl, rfl⟩
  | _ :: _ :: _ :: _ :: _ :: _ => exact .inr ⟨by simp, rfl⟩

/-- The parse by function code: the three parses, or malformed. -/
theorem parseResponse_cases (fc : Byte) (payload : List Byte) (s : State) :
    (fc.getLsbD 7 = true ∧ parseResponse fc payload s = parseException payload s) ∨
    (fc = 0x03 ∧ parseResponse fc payload s = parseRegisters payload s) ∨
    ((fc = 0x06 ∨ fc = 0x10) ∧ parseResponse fc payload s = parseAck fc payload s) ∨
    (fc.getLsbD 7 = false ∧ fc ≠ 0x03 ∧ fc ≠ 0x06 ∧ fc ≠ 0x10 ∧
      parseResponse fc payload s = s.setStatus .errMalformed) := by
  simp only [parseResponse, Config.FC_READ, Config.FC_WSR, Config.FC_WMR]
  by_cases h7 : fc.getLsbD 7 = true
  · exact .inl ⟨h7, if_pos h7⟩
  by_cases h3 : fc = 0x03
  · exact .inr (.inl ⟨h3, by rw [if_neg h7, if_pos h3]⟩)
  by_cases h6 : fc = 0x06 ∨ fc = 0x10
  · exact .inr (.inr (.inl ⟨h6, by rw [if_neg h7, if_neg h3, if_pos h6]⟩))
  · exact .inr (.inr (.inr ⟨by simpa using h7, h3, fun h => h6 (.inl h), fun h => h6 (.inr h),
      by rw [if_neg h7, if_neg h3, if_neg h6]; rfl⟩))

/-- The bits of a frame buffer that holds a frame: its parts in place. -/
theorem State.holdsFrame_iff {s : State} {frame : List Byte} :
    s.holdsFrame frame = true ↔ s.flen.toNat = frame.length ∧ frame.length ≤ 256 ∧ s.fb.holds 0 frame = true := by
  simp only [State.holdsFrame, Bool.and_eq_true, decide_eq_true_eq, and_assoc]

/-- The trailer check of a written frame. -/
theorem receive_of_holdsFrame {s : State} {fc : Byte} {payload : List Byte} {x y : Byte}
    (h : s.holdsFrame ((s.unit :: fc :: payload) ++ [x, y]) = true) :
    receive s = if x ≠ lo8 (crc16 (s.unit :: fc :: payload)) ∨ y ≠ hi8 (crc16 (s.unit :: fc :: payload))
      then .rejected .errCrc s else .accepted fc payload s := by
  obtain ⟨hlen, hmax, hh⟩ := State.holdsFrame_iff.1 h
  have hn : s.flen.toNat = payload.length + 4 := by rw [hlen]; simp
  have hbody := (Memory.holds_append.1 hh).1
  have htail := (Memory.holds_append.1 hh).2
  rw [Memory.holds_cons, Memory.holds_cons] at htail
  have h0 : s.fb.read? 0 = some s.unit := (Memory.holds_cons.1 hbody).1
  have h1 : s.fb.read? 1 = some fc := (Memory.holds_cons.1 (Memory.holds_cons.1 hbody).2).1
  have hpay : s.fb.holds 2 payload = true := (Memory.holds_cons.1 (Memory.holds_cons.1 hbody).2).2
  have hx : s.fb.read? (payload.length + 2) = some x := by
    simpa [show 0 + (payload.length + 1 + 1) = payload.length + 2 by omega] using htail.1
  have hy : s.fb.read? (payload.length + 3) = some y := by
    simpa [show 0 + (payload.length + 1 + 1) + 1 = payload.length + 3 by omega] using htail.2.1
  have hle : payload.length + 4 ≤ 256 := by rw [← hn]; omega
  have e1 : s.fb.drawRange 0 (payload.length + 2) s.draws = (s.unit :: fc :: payload, s.draws) :=
    Memory.drawRange_of_holds hbody _
  have e2 : s.fb.drawRange 2 payload.length s.draws = (payload, s.draws) := Memory.drawRange_of_holds hpay _
  rw [receive, hn, if_neg (show ¬ 256 < payload.length + 4 by omega),
    if_neg (show ¬ payload.length + 4 < 4 by omega), Memory.draw_of_read? h0]
  simp only [ne_eq, not_true_eq_false, if_false, checkTrailer]
  rw [show payload.length + 4 - 2 = payload.length + 2 by omega,
    show payload.length + 4 - 1 = payload.length + 3 by omega, show payload.length + 4 - 4 = payload.length by omega,
    e1, Memory.draw_of_read? hx, Memory.draw_of_read? hy, Memory.draw_of_read? h1, e2]
  rfl

/-- A frame with the device's address and a right trailer passes the checks before the payload. -/
theorem receive_of_goodFrame {s : State} {fc : Byte} {payload : List Byte}
    (h : s.holdsFrame (s.goodFrame fc payload) = true) : receive s = .accepted fc payload s := by
  rw [receive_of_holdsFrame (x := lo8 (crc16 (s.unit :: fc :: payload)))
    (y := hi8 (crc16 (s.unit :: fc :: payload))) h]
  simp

/-- What the state holds after a frame that fits has been placed. -/
theorem State.placeFrame_holdsFrame (s : State) {frame : List Byte} (h : frame.length ≤ 256) :
    (s.placeFrame frame).holdsFrame frame = true := by
  rw [State.holdsFrame_iff]
  refine ⟨?_, h, Memory.holds_writes _ _ _⟩
  simp only [State.placeFrame_flen, BitVec.toNat_ofNat]
  omega

/-- The two ends of `ENC10`. -/
theorem emitReq10_cases (s : State) :
    (123 < s.cnt.toNat ∧ emitReq10 s = s.setStatus .errParam) ∨
    (s.cnt.toNat ≤ 123 ∧ ∃ values d, (values, d) = s.wb.drawRange 0 s.cnt.toNat s.draws ∧
      emitReq10 s = ((s.setDraws d).placeFrame (withTrailer (req10Body s values))).setStatus .okFrame) := by
  by_cases h : 123 < s.cnt.toNat
  · exact .inl ⟨h, by simp [emitReq10, Config.WB_SIZE, h]⟩
  · refine .inr ⟨by omega, _, _, rfl, ?_⟩
    simp only [emitReq10, Config.WB_SIZE, if_neg h]
    rfl

@[simp] theorem length_req10Body (s : State) (values : List Word) :
    (req10Body s values).length = 7 + 2 * values.length := by
  simp [req10Body]
  omega

/-- The two ends of `FTD`. -/
theorem decodeSample_cases (s : State) :
    (s.rcnt.toNat < 6 ∧ decodeSample s = s.setStatus .errInsufficient) ∨
    (6 ≤ s.rcnt.toNat ∧ ∃ values d, (values, d) = s.rb.drawRange 0 6 s.draws ∧
      decodeSample s = ((s.setDraws d).setSample (sampleFrom 0 values)).setStatus .okSample) := by
  by_cases h : s.rcnt.toNat < 6
  · exact .inl ⟨h, if_pos h⟩
  · exact .inr ⟨by omega, _, _, rfl, if_neg h⟩

@[simp] theorem length_sampleFrom (i : Nat) (vs : List Word) : (sampleFrom i vs).length = vs.length := by
  induction vs generalizing i with
  | nil => rfl
  | cons v vs ih => simp [sampleFrom, ih]

/-- Channel `k` of a sample is the channel value of register `k`. -/
theorem getElem?_sampleFrom (i k : Nat) (vs : List Word) :
    (sampleFrom i vs)[k]? = (vs[k]?).map (channelValue (i + k)) := by
  induction vs generalizing i k with
  | nil => simp [sampleFrom]
  | cons v vs ih =>
    cases k with
    | zero => simp [sampleFrom]
    | succ k => simp [sampleFrom, ih, Nat.add_assoc, Nat.add_comm 1 k]

/-- The two ends of `CRC`. -/
theorem sumFrame_cases (s : State) :
    (256 < s.flen.toNat ∧ sumFrame s = s.setStatus .errParam) ∨
    (s.flen.toNat ≤ 256 ∧ ∃ bytes d, (bytes, d) = s.fb.drawRange 0 s.flen.toNat s.draws ∧
      sumFrame s = ((s.setDraws d).setCrcv (crc16 bytes)).setStatus .okCrc) := by
  by_cases h : 256 < s.flen.toNat
  · exact .inl ⟨h, if_pos h⟩
  · exact .inr ⟨by omega, _, _, rfl, if_neg h⟩

/-- The ends of a decode with any parse: a check's error, or the parse of what was accepted. Only the draws of the state
have advanced before the end. -/
theorem decodeWith_cases (parse : Byte → List Byte → State → State) (s : State) :
    (256 < s.flen.toNat ∧ decodeWith parse s = s.setStatus .errParam) ∨
    (s.flen.toNat < 4 ∧ decodeWith parse s = s.setStatus .errShort) ∨
    (4 ≤ s.flen.toNat ∧ s.flen.toNat ≤ 256 ∧
      ((∃ d, decodeWith parse s = (s.setDraws d).setStatus .errAddr) ∨
       (∃ d, decodeWith parse s = (s.setDraws d).setStatus .errCrc) ∨
       (∃ fc payload d, payload.length = s.flen.toNat - 4 ∧
          decodeWith parse s = parse fc payload (s.setDraws d)))) := by
  rcases receive_cases s with ⟨h, hn⟩ | ⟨h, hn⟩ | ⟨h4, h5, ⟨d, h⟩ | ⟨d, h⟩ | ⟨fc, p, d, h, hl⟩⟩
  · exact .inl ⟨hn, by simp [decodeWith, h]⟩
  · exact .inr (.inl ⟨hn, by simp [decodeWith, h]⟩)
  · exact .inr (.inr ⟨h4, h5, .inl ⟨d, by simp [decodeWith, h]⟩⟩)
  · exact .inr (.inr ⟨h4, h5, .inr (.inl ⟨d, by simp [decodeWith, h]⟩)⟩)
  · exact .inr (.inr ⟨h4, h5, .inr (.inr ⟨fc, p, d, hl, by simp [decodeWith, h]⟩)⟩)

/-- A frame with the device's address and a right trailer is parsed. -/
theorem decodeWith_of_goodFrame (parse : Byte → List Byte → State → State) {s : State} {fc : Byte}
    {payload : List Byte} (h : s.holdsFrame (s.goodFrame fc payload) = true) :
    decodeWith parse s = parse fc payload s := by
  simp [decodeWith, receive_of_goodFrame h]

/-- `DEC` and every response format are the same checks followed by a parse. -/
theorem exec_eq_decodeWith (i : Instr) (hi : i = .dec ∨ i.space = .rsp) :
    ∃ parse, ∀ s, exec i s = .next (decodeWith parse s) := by
  rcases hi with rfl | hi
  · exact ⟨_, fun _ => rfl⟩
  · cases i <;> first | exact absurd hi (by decide) | exact ⟨_, fun _ => rfl⟩

/-- `CRC` on a frame all of whose cells have been written. -/
theorem exec_crc_of_holdsFrame {t : State} {frame : List Byte} (h : t.holdsFrame frame = true) :
    exec .crc t = .next { t with crcv := crc16 frame, status := Status.okCrc.code } := by
  obtain ⟨h1, h2, h3⟩ := State.holdsFrame_iff.1 h
  rcases sumFrame_cases t with ⟨h', e⟩ | ⟨h', bytes, d, hv, e⟩
  · omega
  · rw [h1, Memory.drawRange_of_holds h3] at hv
    cases hv
    simp only [exec, execCrc, e]
    rfl

end Sys2Proof.Machine
end

