-- ==== Sys2Proof/Laws/Crc.lean ====
section
/-! SUPPORT. The CRC functions lose nothing: for a fixed byte the step is injective in the working value, and for a fixed
working value it is injective in the byte (the reason behind 40_crc.md R107). -/

namespace Sys2Proof.Machine

theorem crcBits_eq_iterate (n : Nat) (c : Word) : crcBits n c = crcBit^[n] c := by
  induction n generalizing c with
  | zero => rfl
  | succ n ih => simp [crcBits, ih]

theorem crcBit_injective : Function.Injective crcBit := by
  intro a b h
  simp only [crcBit] at h
  have key : ∀ x y : Word, (x >>> 1 = y >>> 1) → x.getLsbD 0 = y.getLsbD 0 → x = y := by
    intro x y h h0
    ext i hi
    cases i with
    | zero => simpa using h0
    | succ i =>
      have := congrArg (fun z => z.getLsbD i) h
      simp [Nat.add_comm 1, BitVec.getLsbD_eq_getElem hi] at this
      exact this
  have top : ∀ x : Word, (x >>> 1).getLsbD 15 = false := by intro x; simp
  split at h <;> split at h
  · exact key _ _ (by simpa using h) (by simp_all)
  · have := congrArg (fun z => z.getLsbD 15) h
    simp at this
  · have := congrArg (fun z => z.getLsbD 15) h
    simp at this
  · exact key _ _ h (by simp_all)

theorem crcBits_injective (n : Nat) : Function.Injective (crcBits n) := by
  intro a b h
  rw [crcBits_eq_iterate, crcBits_eq_iterate] at h
  exact (crcBit_injective.iterate n) h

theorem crcByte_injective (b : Byte) : Function.Injective (fun c => crcByte c b) := by
  intro x y h
  have := crcBits_injective 8 h
  simpa using this

theorem crcByte_right_cancel (c : Word) {b b' : Byte} (h : crcByte c b = crcByte c b') : b = b' := by
  have := crcBits_injective 8 h
  have : b.setWidth 16 = b'.setWidth 16 := by simpa using this
  apply BitVec.eq_of_toNat_eq
  have := congrArg BitVec.toNat this
  simp at this
  omega

theorem crcFrom_injective (bs : List Byte) : Function.Injective (fun c => crcFrom c bs) := by
  induction bs with
  | nil => exact fun _ _ h => h
  | cons b bs ih => exact fun x y h => crcByte_injective b (ih h)

theorem set_eq_of_crcFrom_eq (bs : List Byte) (k : Nat) (b : Byte) (c : Word) (h : crcFrom c (bs.set k b) = crcFrom c bs) :
    bs.set k b = bs := by
  induction bs generalizing k c with
  | nil => rfl
  | cons x bs ih =>
    cases k with
    | zero =>
      simp only [List.set_cons_zero, crcFrom] at h ⊢
      rw [crcByte_right_cancel c (crcFrom_injective bs h)]
    | succ k =>
      simp only [List.set_cons_succ, crcFrom] at h ⊢
      rw [ih _ _ h]

theorem eq_of_lo8_hi8 {c d : Word} (h1 : lo8 c = lo8 d) (h2 : hi8 c = hi8 d) : c = d := by
  rw [← be16_hi8_lo8 c, ← be16_hi8_lo8 d, h1, h2]

end Sys2Proof.Machine
end

