-- ==== Sys2Proof/Laws/Ends.lean ====
section
/-! SUPPORT. Every end of every instruction: the states that `exec` can answer, with what is known at each. -/

namespace Sys2Proof.Machine

/-- The states that a decode can end in. -/
inductive DecodeEnd (s : State) : State → Prop where
  | error (st : Status) (d : Nat)
      (h : (st = .errParam ∧ 256 < s.flen.toNat ∧ d = s.draws) ∨ (st = .errShort ∧ s.flen.toNat < 4 ∧ d = s.draws) ∨
        ((st = .errAddr ∨ st = .errCrc ∨ st = .errMalformed) ∧ 4 ≤ s.flen.toNat ∧ s.flen.toNat ≤ 256)) :
      DecodeEnd s ((s.setDraws d).setStatus st)
  | exception (code : Byte) (d : Nat) (h : s.flen.toNat = 5) :
      DecodeEnd s (((s.setDraws d).setExc code).setStatus .okException)
  | registers (values : List Word) (d : Nat) (hv : values.length = s.cnt.toNat) (hc : s.cnt.toNat ≤ 125)
      (h : s.flen.toNat = 5 + 2 * s.cnt.toNat) :
      DecodeEnd s (((s.setDraws d).setRegisters values).setStatus .okRegisters)
  | ack (fc : Byte) (reg dat : Word) (d : Nat) (hf : fc = 0x06 ∨ fc = 0x10) (h : s.flen.toNat = 8) :
      DecodeEnd s (((s.setDraws d).setAck fc reg dat).setStatus .okWriteack)

/-- A decode ends as its parse does, when the parse ends every accepted frame so. -/
theorem decodeWith_end {parse : Byte → List Byte → State → State} {s : State}
    (hp : ∀ fc payload d, payload.length = s.flen.toNat - 4 → 4 ≤ s.flen.toNat → s.flen.toNat ≤ 256 →
      DecodeEnd s (parse fc payload (s.setDraws d))) : DecodeEnd s (decodeWith parse s) := by
  rcases decodeWith_cases parse s with ⟨h, e⟩ | ⟨h, e⟩ | ⟨h4, h5, ⟨d, e⟩ | ⟨d, e⟩ | ⟨fc, p, d, hl, e⟩⟩ <;> rw [e]
  · exact .error .errParam s.draws (.inl ⟨rfl, h, rfl⟩)
  · exact .error .errShort s.draws (.inr (.inl ⟨rfl, h, rfl⟩))
  · exact .error .errAddr d (.inr (.inr ⟨.inl rfl, h4, h5⟩))
  · exact .error .errCrc d (.inr (.inr ⟨.inr (.inl rfl), h4, h5⟩))
  · exact hp fc p d hl h4 h5

theorem malformed_end {s : State} (d : Nat) (h4 : 4 ≤ s.flen.toNat) (h5 : s.flen.toNat ≤ 256) :
    DecodeEnd s ((s.setDraws d).setStatus .errMalformed) :=
  .error .errMalformed d (.inr (.inr ⟨.inr (.inr rfl), h4, h5⟩))

theorem parseException_end {s : State} (payload : List Byte) (d : Nat) (hl : payload.length = s.flen.toNat - 4)
    (h4 : 4 ≤ s.flen.toNat) (h5 : s.flen.toNat ≤ 256) : DecodeEnd s (parseException payload (s.setDraws d)) := by
  rcases parseException_cases payload (s.setDraws d) with ⟨code, hp, e⟩ | ⟨_, e⟩ <;> rw [e]
  · refine .exception code d ?_
    rw [hp, List.length_singleton] at hl
    omega
  · exact malformed_end d h4 h5

theorem parseRegisters_end {s : State} (payload : List Byte) (d : Nat) (hl : payload.length = s.flen.toNat - 4)
    (h4 : 4 ≤ s.flen.toNat) (h5 : s.flen.toNat ≤ 256) : DecodeEnd s (parseRegisters payload (s.setDraws d)) := by
  rcases parseRegisters_cases payload (s.setDraws d) with ⟨bc, data, hp, hb, hd, e⟩ | e <;> rw [e]
  · rw [hp, List.length_cons, hd, hb, State.setDraws_cnt] at hl
    have hbc := bc.isLt
    rw [hb, State.setDraws_cnt] at hbc
    refine .registers (wordsBe data) d ?_ (by omega) (by omega)
    rw [length_wordsBe, hd, hb, State.setDraws_cnt]
    omega
  · exact malformed_end d h4 h5

theorem parseAck_end {s : State} (fc : Byte) (payload : List Byte) (d : Nat)
    (hf : fc = 0x06 ∨ fc = 0x10) (hl : payload.length = s.flen.toNat - 4) (h4 : 4 ≤ s.flen.toNat)
    (h5 : s.flen.toNat ≤ 256) : DecodeEnd s (parseAck fc payload (s.setDraws d)) := by
  rcases parseAck_cases fc payload (s.setDraws d) with ⟨r0, r1, d0, d1, hp, e⟩ | ⟨_, e⟩ <;> rw [e]
  · refine .ack fc _ _ d hf ?_
    rw [hp] at hl
    simp only [List.length_cons, List.length_nil] at hl
    omega
  · exact malformed_end d h4 h5

/-- The ends of `DEC`. -/
theorem execDec_end (s : State) : ∃ t, exec .dec s = .next t ∧ DecodeEnd s t := by
  refine ⟨_, rfl, decodeWith_end fun fc p d hl h4 h5 => ?_⟩
  rcases parseResponse_cases fc p (s.setDraws d) with ⟨_, e⟩ | ⟨_, e⟩ | ⟨hf, e⟩ | ⟨_, _, _, _, e⟩ <;> rw [e]
  · exact parseException_end p d hl h4 h5
  · exact parseRegisters_end p d hl h4 h5
  · exact parseAck_end fc p d hf hl h4 h5
  · exact malformed_end d h4 h5

/-- The function-code byte that selects a response format with a fixed one. -/
theorem decodeRsp_fixed {fc : Byte} :
    (decodeRsp fc = some .rsp03 → fc = 0x03) ∧ (decodeRsp fc = some .rsp06 → fc = 0x06) ∧
    (decodeRsp fc = some .rsp10 → fc = 0x10) := by
  simp only [decodeRsp]
  refine ⟨?_, ?_, ?_⟩ <;> split_ifs <;> simp_all

/-- The ends of the response formats. -/
theorem execRsp_end (i : Instr) (hi : i.space = .rsp) (s : State) : ∃ t, exec i s = .next t ∧ DecodeEnd s t := by
  cases i <;> first | exact absurd hi (by decide) | refine ⟨_, rfl, decodeWith_end fun fc p d hl h4 h5 => ?_⟩
  · rw [parseAsRsp03]
    split
    · exact parseRegisters_end p d hl h4 h5
    · exact malformed_end d h4 h5
  · rw [parseAsRsp06]
    split
    · exact parseAck_end fc p d (.inl (decodeRsp_fixed.2.1 ‹_›)) hl h4 h5
    · exact malformed_end d h4 h5
  · rw [parseAsRsp10]
    split
    · exact parseAck_end fc p d (.inr (decodeRsp_fixed.2.2 ‹_›)) hl h4 h5
    · exact malformed_end d h4 h5
  · rw [parseAsRspexc]
    split
    · exact parseException_end p d hl h4 h5
    · exact malformed_end d h4 h5

/-- The states that building a request can end in. -/
inductive EncodeEnd (s : State) : State → Prop where
  | error (h : 123 < s.cnt.toNat) : EncodeEnd s (s.setStatus .errParam)
  | frame (fc : Byte) (payload : List Byte) (d : Nat) (h : payload.length ≤ 251) :
      EncodeEnd s (((s.setDraws d).placeFrame (withTrailer (s.unit :: fc :: payload))).setStatus .okFrame)

/-- The ends of the encode commands and of the request formats. -/
theorem execEncode_end (i : Instr) (hi : i = .enc03 ∨ i = .enc06 ∨ i = .enc10 ∨ i.space = .req) (s : State) :
    ∃ t, exec i s = .next t ∧ EncodeEnd s t := by
  have h10 : EncodeEnd s (emitReq10 s) := by
    rcases emitReq10_cases s with ⟨h, e⟩ | ⟨h, vs, d, hv, e⟩ <;> rw [e]
    · exact .error h
    · have hl : vs.length = s.cnt.toNat := by
        have := congrArg (fun p => p.1.length) hv
        simpa using this
      refine .frame Config.FC_WMR ([hi8 s.reg, lo8 s.reg, hi8 s.cnt, lo8 s.cnt,
        BitVec.ofNat 8 (2 * s.cnt.toNat)] ++ bytesBe vs) d ?_
      simp only [List.length_append, List.length_cons, List.length_nil, length_bytesBe, hl]
      omega
  have h03 : EncodeEnd s (emitFrame (req03Body s) s) :=
    .frame Config.FC_READ [hi8 s.reg, lo8 s.reg, hi8 s.cnt, lo8 s.cnt] s.draws (by simp)
  have h06 : EncodeEnd s (emitFrame (req06Body s) s) :=
    .frame Config.FC_WSR [hi8 s.reg, lo8 s.reg, hi8 s.val, lo8 s.val] s.draws (by simp)
  cases i with
  | enc03 => exact ⟨_, rfl, h03⟩
  | enc06 => exact ⟨_, rfl, h06⟩
  | enc10 => exact ⟨_, rfl, h10⟩
  | req03 => exact ⟨_, rfl, h03⟩
  | req06 => exact ⟨_, rfl, h06⟩
  | req10 => exact ⟨_, rfl, h10⟩
  | dec => simp [Instr.space] at hi
  | ftd => simp [Instr.space] at hi
  | crc => simp [Instr.space] at hi
  | rsp03 => simp [Instr.space] at hi
  | rsp06 => simp [Instr.space] at hi
  | rsp10 => simp [Instr.space] at hi
  | rspexc low => simp [Instr.space] at hi

end Sys2Proof.Machine
end

