-- ==== Sys2Proof/Laws/PerInstr.lean ====
section
/-! SUPPORT. The per-instruction family Encoding: each row of the opcode table, encoded and decoded in its own space. -/

namespace Sys2Proof.Laws.Encoding

/-- The row is well-formed, and its byte decodes in its space to the row itself. -/
def Statement (i : Instr) : Prop := i.wf = true ∧ decodeIn i.space (encode i) = some i

theorem enc03 : Statement .enc03 := ⟨rfl, rfl⟩
theorem enc06 : Statement .enc06 := ⟨rfl, rfl⟩
theorem enc10 : Statement .enc10 := ⟨rfl, rfl⟩
theorem dec : Statement .dec := ⟨rfl, rfl⟩
theorem ftd : Statement .ftd := ⟨rfl, rfl⟩
theorem crc : Statement .crc := ⟨rfl, rfl⟩
theorem req03 : Statement .req03 := ⟨rfl, rfl⟩
theorem req06 : Statement .req06 := ⟨rfl, rfl⟩
theorem req10 : Statement .req10 := ⟨rfl, rfl⟩
theorem rsp03 : Statement .rsp03 := ⟨rfl, rfl⟩
theorem rsp06 : Statement .rsp06 := ⟨rfl, rfl⟩
theorem rsp10 : Statement .rsp10 := ⟨rfl, rfl⟩
theorem rspexc (low : BitVec 7) : Statement (.rspexc low) := by
  refine ⟨rfl, ?_⟩
  revert low
  decide +kernel

end Sys2Proof.Laws.Encoding
end

