-- ==== Sys2Proof/Tests/Slice0.lean ====
section
/-! SUPPORT. Tests: ill-formed terms refused, words written out from the encoding tables, the spec's vectors
(95_test_vectors.md), and a witness for the hypotheses of each statement. Every expected value is the spec's. -/

namespace Sys2Proof.Tests

open Sys2Proof Sys2Proof.Machine

/-- The next state, if there is one. -/
def after (o : Host.Outcome State Fault Refusal) : Option State :=
  match o with
  | .next t => some t
  | .fault _ => none
  | .refused _ => none

/-- After reset, `CNT` set and a frame loaded (`LDFRAME`). -/
def loaded (frame : List Byte) (cnt : Word) : State :=
  State.placeFrame { State.reset with cnt := cnt } frame

/-- After reset, registers loaded (`LDREGS`). -/
def withRegs (values : List Word) : State :=
  { State.reset with rb := Memory.writes (w := 16) [] 0 values, rcnt := BitVec.ofNat 8 values.length }

/-- After reset, values loaded (`LDVALS`). -/
def withVals (reg : Word) (values : List Word) : State :=
  { State.reset with reg := reg, wb := Memory.writes (w := 16) [] 0 values, cnt := BitVec.ofNat 16 values.length }

/-- After reset, with events pending. -/
def awaiting (events : List Event) : State := { State.reset with pending := events }

/-! ## Well-formedness: one ill-formed term for each check -/

theorem test_wf_refuses_unassigned_write : Event.wf (.write 0x27B 0) = false := by decide
theorem test_wf_refuses_unassigned_read : Event.wf (.read 0x37D) = false := by decide
theorem test_wf_refuses_value_too_wide : Event.wf (.write 0x002 0x100) = false := by decide
theorem test_wf_accepts_widest : Event.wf (.write 0x002 0xFF) = true := by decide

/-! ## Decoding: words written out bit by bit from 30_encoding.md R70 and R73 to R79 -/

theorem test_decode_enc03 : decodeTableWord 8 0b00000011 = some .enc03 := by decide
theorem test_decode_enc06 : decodeTableWord 8 0b00000110 = some .enc06 := by decide
theorem test_decode_enc10 : decodeTableWord 8 0b00010000 = some .enc10 := by decide
theorem test_decode_dec : decodeTableWord 8 0b01000000 = some .dec := by decide
theorem test_decode_ftd : decodeTableWord 8 0b01000001 = some .ftd := by decide
theorem test_decode_crc : decodeTableWord 8 0b01000010 = some .crc := by decide
theorem test_decode_req03 : decodeIn .req 0b00000011 = some .req03 := by decide
theorem test_decode_req06 : decodeIn .req 0b00000110 = some .req06 := by decide
theorem test_decode_req10 : decodeIn .req 0b00010000 = some .req10 := by decide
theorem test_decode_rsp03 : decodeIn .rsp 0b00000011 = some .rsp03 := by decide
theorem test_decode_rsp06 : decodeIn .rsp 0b00000110 = some .rsp06 := by decide
theorem test_decode_rsp10 : decodeIn .rsp 0b00010000 = some .rsp10 := by decide
theorem test_decode_rspexc : decodeIn .rsp 0b11111111 = some (.rspexc 0b1111111) := by decide
theorem test_decode_undefined : decode [0x43, 0x03] = .error (.undefinedCode 0x43) := by rfl
theorem test_decode_leaves_the_rest : decode [0x42, 0x03] = .ok (.crc, [0x03]) := by rfl

/-! ## The spec's vectors, one step each -/

/-- V-CRC-3, V-CRC-5. -/
theorem test_crc16_one_byte : crc16 [0x01] = 0x807E := by decide
theorem test_crc16_check_value :
    crc16 [0x31, 0x32, 0x33, 0x34, 0x35, 0x36, 0x37, 0x38, 0x39] = 0x4B37 := by decide +kernel

/-- V-CRC-11. -/
theorem test_crc_command :
    (after (exec .crc (loaded [0x31, 0x32, 0x33, 0x34, 0x35, 0x36, 0x37, 0x38, 0x39] 0))).map
      (fun t => (t.status, t.crcv, t.flen)) = some (0x06, 0x4B37, 9) := by decide +kernel
theorem test_crc_too_long :
    (after (exec .crc { State.reset with flen := 257 })).map (fun t => (t.status, t.crcv)) = some (0x0D, 0xFFFF) := by
  decide

/-- V-ENC-3. -/
theorem test_enc03 :
    (after (exec .enc03 { State.reset with unit := 0x11, reg := 0x006B, cnt := 3 })).map
      (fun t => (t.status, t.flen, t.fb.map Prod.snd)) =
      some (0x01, 8, [0x11, 0x03, 0x00, 0x6B, 0x00, 0x03, 0x76, 0x87]) := by decide +kernel

/-- V-ENC-8. -/
theorem test_enc06 :
    (after (exec .enc06 { State.reset with reg := 0x1234, val := 0xABCD })).map
      (fun t => (t.status, t.flen, t.fb.map Prod.snd)) =
      some (0x01, 8, [0x01, 0x06, 0x12, 0x34, 0xAB, 0xCD, 0x73, 0xD9]) := by decide +kernel

/-- V-ENC-12, V-ENC-14. -/
theorem test_enc10 :
    (after (exec .enc10 (withVals 0x0001 [0x000A, 0x0102]))).map (fun t => (t.status, t.fb.map Prod.snd)) =
      some (0x01, [0x01, 0x10, 0x00, 0x01, 0x00, 0x02, 0x04, 0x00, 0x0A, 0x01, 0x02, 0x92, 0x30]) := by
  decide +kernel
theorem test_enc10_no_values :
    (after (exec .enc10 (withVals 0 []))).map (fun t => (t.status, t.flen, t.fb.map Prod.snd)) =
      some (0x01, 9, [0x01, 0x10, 0x00, 0x00, 0x00, 0x00, 0x00, 0x09, 0x50]) := by decide +kernel

/-- V-DEC-3 with `UNIT` = 0x11, V-DEC-19. -/
theorem test_dec_registers :
    (after (exec .dec { loaded [0x11, 0x03, 0x06, 0x02, 0x2B, 0x00, 0x00, 0x00, 0x64, 0xC8, 0xBA] 3 with
      unit := 0x11 })).map (fun t => (t.status, t.rcnt, t.rb)) =
      some (0x02, 3, [(0, 0x022B), (1, 0x0000), (2, 0x0064)]) := by decide +kernel
theorem test_dec_count_does_not_wrap :
    (after (exec .dec (loaded [0x01, 0x03, 0x00, 0x20, 0xF0] 128))).map State.status = some 0x0B := by decide +kernel

/-- V-DEC-22, V-DEC-25, as rows. -/
theorem test_rspexc :
    (after (exec (.rspexc 0b0000110) (loaded [0x01, 0x86, 0x03, 0x02, 0x61] 0))).map (fun t => (t.status, t.exc)) =
      some (0x04, 0x03) := by decide +kernel
theorem test_rspexc_two_codes :
    (after (exec (.rspexc 0b0000011) (loaded [0x01, 0x83, 0x02, 0x00, 0xF1, 0x50] 0))).map State.status =
      some 0x0B := by decide +kernel

/-- V-DEC-17, V-DEC-26, V-DEC-28, as rows. -/
theorem test_rsp03_more_data_than_count :
    (after (exec .rsp03 (loaded [0x01, 0x03, 0x02, 0x00, 0x01, 0x00, 0x02, 0xA2, 0x32] 1))).map State.status =
      some 0x0B := by decide +kernel
theorem test_rsp06 :
    (after (exec .rsp06 (loaded [0x01, 0x06, 0x00, 0x01, 0x00, 0x03, 0x98, 0x0B] 0))).map
      (fun t => (t.status, t.ackfc, t.ackreg, t.ackdat)) = some (0x03, 0x06, 0x0001, 0x0003) := by decide +kernel
theorem test_rsp10 :
    (after (exec .rsp10 (loaded [0x01, 0x10, 0x9A, 0x00, 0x00, 0x02, 0x6F, 0x10] 0))).map
      (fun t => (t.status, t.ackfc, t.ackreg, t.ackdat)) = some (0x03, 0x10, 0x9A00, 0x0002) := by decide +kernel

/-- S-1, V-FTD-8. -/
theorem test_ftd_document_example :
    (after (exec .ftd (withRegs [0x00FA, 0xFED4, 0x03E8, 0x01F4, 0xFA24, 0x0000]))).map
      (fun t => (t.status, t.ft.map Prod.snd)) =
      some (0x05, [0x4004000000000000, 0xC008000000000000, 0x4024000000000000, 0x3FE0000000000000,
        0xBFF8000000000000, 0x0000000000000000]) := by decide +kernel
theorem test_ftd_five_registers :
    (after (exec .ftd (withRegs [0x00FA, 0xFED4, 0x03E8, 0x01F4, 0xFA24]))).map (fun t => (t.status, t.ft)) =
      some (0x0C, []) := by decide +kernel

/-- V-FTD-7b in both formats, and the value of a pattern. -/
theorem test_flt_binary64 : flt 291 1000 = 0x3FD29FBE76C8B439 := by decide +kernel
theorem test_flt_binary32 : fltBits Config.binary32 291 1000 = 0x3E94FDF4 := by decide +kernel
theorem test_floatValue : floatValue 0xC008000000000000 = -3 := by decide +kernel

/-- V-CMD-3, V-CMD-5: an undefined code; a write to a read-only register. -/
theorem test_step_undefined_code :
    (after (step (awaiting [cmdLine 0x7F]))).map (fun t => (t.status, t.cmd)) = some (0x0E, 0x7F) := by decide
theorem test_step_status_is_read_only :
    (after (step (awaiting [wr .status 0x55]))).map State.status = some 0x00 := by decide

/-! ## Witnesses: states and operands that meet the hypotheses of the statements, at the ends of their ranges -/

theorem witness_reset_event : (awaiting [.reset, .read 1]).pending = .reset :: [.read 1] := rfl
theorem witness_undefined_code : decodeCmd 0x43 = none ∧ decodeCmd 0x00 = none := by decide
theorem witness_write_cmd : (awaiting [.write 0x000 0x42]).pending = .write 0x000 (0x42 : Byte).toNat :: [] ∧
    decodeCmd 0x42 = some .crc ∧ (awaiting [.read 0x000]).pending = .read 0x000 :: [] := by decide
theorem witness_fetch_word : decodeTableWord 8 0b01000010 = some .crc := by decide
theorem witness_no_access : State.reset.pending = [] := rfl
theorem witness_wf_row : Instr.wf (.rspexc 0x7F) = true ∧ decodeIn .rsp 0xFF = some (.rspexc 0x7F) := by decide
theorem witness_register_number : HostReg.ofNumber 0x00C = some .crcv ∧ HostReg.ofNumber 0x1FF = some (.fb 255) ∧
    HostReg.ofNumber 0x27A = some (.wb 122) ∧ HostReg.ofNumber 0x37C = some (.rb 124) ∧
    HostReg.ofNumber 0x405 = some (.ft 5) := by decide
theorem witness_read_scalar : (awaiting [rd .crcv]).pending = .read HostReg.crcv.number :: [] ∧
    (awaiting [rd .crcv]).valueOf? .crcv = some 0xFFFF := by decide
theorem witness_read_written_cell :
    ({ loaded [0x01, 0x03] 0 with pending := [rd (.fb 1)] } : State).valueOf? (.fb 1) = some 0x03 := by decide
theorem witness_read_unwritten_cell : (awaiting [rd (.ft 5)]).pending = .read (HostReg.ft 5).number :: [] ∧
    (awaiting [rd (.ft 5)]).valueOf? (.ft 5) = none ∧ (awaiting [rd (.fb 255)]).valueOf? (.fb 255) = none ∧
    (awaiting [rd (.wb 122)]).valueOf? (.wb 122) = none ∧ (awaiting [rd (.rb 124)]).valueOf? (.rb 124) = none := by
  decide
theorem witness_writable : HostReg.writable (.fb 255) = true ∧ HostReg.fb 255 ≠ .cmd ∧ 255 < 2 ^ (HostReg.fb 255).width ∧
    (awaiting [.write (HostReg.fb 255).number 255]).pending = .write (HostReg.fb 255).number 255 :: [] := by decide
theorem witness_read_only : (awaiting [wr (.ft 5) (2 ^ 64 - 1)]).pending = .write (HostReg.ft 5).number (2 ^ 64 - 1) :: [] ∧
    HostReg.writable (.ft 5) = false ∧ 2 ^ 64 - 1 < 2 ^ (HostReg.ft 5).width ∧
    HostReg.writable .status = false ∧ 0x55 < 2 ^ HostReg.status.width := by decide
theorem witness_unassigned : (awaiting [.read 0x27B]).pending = .read 0x27B :: [] ∧
    (awaiting [.write 0x27B 0]).pending = .write 0x27B 0 :: [] ∧ HostReg.ofNumber 0x00D = none ∧ HostReg.ofNumber 0x27B = none ∧
    HostReg.ofNumber 0x37D = none ∧ HostReg.ofNumber 0x406 = none ∧ HostReg.ofNumber 0x0FF = none := by decide
theorem witness_too_wide : 2 ^ HostReg.unit.width ≤ 0x100 ∧
    (awaiting [.write HostReg.unit.number 0x100]).pending = .write HostReg.unit.number 0x100 :: [] := by decide
theorem witness_write_then_read : (awaiting [.write HostReg.cnt.number 14, .read HostReg.cnt.number]).pending =
    .write HostReg.cnt.number 14 :: .read HostReg.cnt.number :: [] ∧ HostReg.cnt.writable = true ∧
    HostReg.cnt ≠ .cmd ∧ 14 < 2 ^ HostReg.cnt.width := by decide
theorem witness_wf_event : (awaiting [.write 0x405 0]).pending = .write 0x405 0 :: [] ∧ Event.wf (.write 0x405 0) = true ∧ Event.wf (.read 0x1FF) = true ∧ Event.wf .reset = true := by
  decide
theorem witness_event_not_a_command : ∃ t, step (awaiting [.write 0x002 5]) = .next t ∧ Event.write 0x002 5 ≠ .reset ∧
    ∀ v, Event.write 0x002 5 ≠ .write 0x000 v := ⟨_, rfl, by decide, by simp⟩

theorem witness_changed_byte : (withTrailer [0x01, 0x03]).set 3 0x22 = [0x01, 0x03] ++ [0x40, 0x22] ∧
    (withTrailer [0x01, 0x03]).set 3 0x22 ≠ withTrailer [0x01, 0x03] := by decide +kernel
theorem witness_changed_frame : ∀ k < 4,
    (State.goodFrame State.reset 0x03 []).set k 0xEE ≠ State.goodFrame State.reset 0x03 [] ∧
    (loaded ((State.goodFrame State.reset 0x03 []).set k 0xEE) 0).holdsFrame
      (((loaded ((State.goodFrame State.reset 0x03 []).set k 0xEE) 0).goodFrame 0x03 []).set k 0xEE) = true := by
  decide +kernel
theorem witness_crc_lengths : (loaded (List.replicate 256 0xA5) 0).flen.toNat ≤ 256 ∧
    (loaded (List.replicate 256 0xA5) 0).fb.written 0 256 = true ∧
    256 < ({ State.reset with flen := 257 } : State).flen.toNat := by decide +kernel

theorem witness_enc10_counts : (withVals 0 (List.replicate 123 0xA55A)).cnt.toNat ≤ 123 ∧
    (withVals 0 (List.replicate 123 0xA55A)).wb.written 0 123 = true ∧
    123 < (withVals 0 (List.replicate 124 0xA55A)).cnt.toNat := by decide +kernel
theorem witness_encoders_end_ok : (∃ t, exec .enc03 State.reset = .next t ∧ t.status = Status.okFrame.code) ∧
    (∃ t, exec .enc06 State.reset = .next t ∧ t.status = Status.okFrame.code) ∧
    ∃ t, exec .enc10 State.reset = .next t ∧ t.status = Status.okFrame.code :=
  ⟨⟨_, rfl, rfl⟩, ⟨_, rfl, rfl⟩, ⟨_, rfl, by decide⟩⟩

theorem witness_overlong : 256 < ({ State.reset with flen := 257 } : State).flen.toNat := by decide
theorem witness_short : (loaded [0x01, 0x03, 0x00] 0).flen.toNat < 4 ∧ Instr.space .rsp06 = .rsp := by decide
theorem witness_wrong_address : 4 ≤ (loaded [0x02, 0x03, 0x00, 0x00] 0).flen.toNat ∧
    (loaded [0x02, 0x03, 0x00, 0x00] 0).flen.toNat ≤ 256 ∧
    (loaded [0x02, 0x03, 0x00, 0x00] 0).fb.read? 0 = some 0x02 ∧
    (0x02 : Byte) ≠ (loaded [0x02, 0x03, 0x00, 0x00] 0).unit := by decide
theorem witness_trailers : (loaded [0x01, 0x03, 0x40, 0x21] 0).holdsFrame ((0x01 :: 0x03 :: []) ++ [0x40, 0x21]) = true ∧
    (0x40 = lo8 (crc16 [0x01, 0x03]) ∧ 0x21 = hi8 (crc16 [0x01, 0x03])) ∧
    (loaded [0x01, 0x03, 0x21, 0x40] 0).holdsFrame ((0x01 :: 0x03 :: []) ++ [0x21, 0x40]) = true ∧
    0x21 ≠ lo8 (crc16 [0x01, 0x03]) := by decide +kernel
theorem witness_exception : (0xFF : Byte).getLsbD 7 = true ∧
    (loaded [0x01, 0xFF, 0xFF, 0x21, 0xB0] 0).holdsFrame (State.goodFrame State.reset 0xFF [0xFF]) = true ∧
    (loaded [0x01, 0x83, 0x41, 0x81] 0).holdsFrame (State.goodFrame State.reset 0x83 []) = true ∧
    (loaded [0x01, 0x83, 0x02, 0x00, 0xF1, 0x50] 0).holdsFrame (State.goodFrame State.reset 0x83 [0x02, 0x00]) = true := by
  decide +kernel

/-- V-DEC-6: the largest read response, 125 registers. -/
def largestRead : State := loaded (State.goodFrame State.reset 0x03 (0xFA :: bytesBe (List.replicate 125 0x1234))) 125

theorem witness_largest_read :
    largestRead.holdsFrame (largestRead.goodFrame 0x03 (0xFA :: bytesBe (List.replicate 125 0x1234))) = true ∧
    ((0xFA : Byte).toNat = 2 * largestRead.cnt.toNat ∧
      (bytesBe (List.replicate 125 0x1234)).length = (0xFA : Byte).toNat) :=
  ⟨State.placeFrame_holdsFrame _ (by simp [State.goodFrame, withTrailer, trailerBytes]), by decide, by simp⟩
theorem witness_read_responses :
    (loaded [0x01, 0x03, 0x00, 0x20, 0xF0] 0).holdsFrame (State.goodFrame State.reset 0x03 [0x00]) = true ∧
    (loaded [0x01, 0x03, 0x40, 0x21] 0).holdsFrame (State.goodFrame State.reset 0x03 []) = true ∧
    (loaded [0x01, 0x03, 0x02, 0x80, 0x00, 0xD9, 0x84] 2).holdsFrame
      (State.goodFrame State.reset 0x03 [0x02, 0x80, 0x00]) = true := by decide +kernel
theorem witness_acknowledgements :
    (loaded [0x01, 0x06, 0x00, 0x01, 0x00, 0x03, 0x98, 0x0B] 0).holdsFrame
      (State.goodFrame State.reset 0x06 [0x00, 0x01, 0x00, 0x03]) = true ∧
    (loaded [0x01, 0x10, 0x01, 0x00, 0x00, 0x04, 0xC0, 0x36] 0).holdsFrame
      (State.goodFrame State.reset 0x10 [0x01, 0x00, 0x00, 0x04]) = true ∧
    (loaded [0x01, 0x06, 0x00, 0x01, 0x20, 0x19] 0).holdsFrame
      (State.goodFrame State.reset 0x06 [0x00, 0x01]) = true := by decide +kernel
theorem witness_acknowledgement_lengths :
    (loaded (State.goodFrame State.reset 0x06 [0x00, 0x01, 0x00]) 0).holdsFrame
      (State.goodFrame State.reset 0x06 [0x00, 0x01, 0x00]) = true ∧
    (loaded (State.goodFrame State.reset 0x10 [0x00, 0x01, 0x00, 0x03, 0x00]) 0).holdsFrame
      (State.goodFrame State.reset 0x10 [0x00, 0x01, 0x00, 0x03, 0x00]) = true :=
  ⟨State.placeFrame_holdsFrame _ (by simp [State.goodFrame, withTrailer, trailerBytes]),
    State.placeFrame_holdsFrame _ (by simp [State.goodFrame, withTrailer, trailerBytes])⟩
theorem witness_other_format :
    (loaded [0x01, 0x10, 0x01, 0x00, 0x00, 0x04, 0xC0, 0x36] 0).holdsFrame
      (State.goodFrame State.reset 0x10 [0x01, 0x00, 0x00, 0x04]) = true ∧
    (0x10 : Byte) ≠ 0x03 ∧ (0x10 : Byte) ≠ 0x06 ∧ (0x10 : Byte).getLsbD 7 = false ∧
    (loaded [0x01, 0x06, 0x00, 0x01, 0x00, 0x03, 0x98, 0x0B] 0).holdsFrame
      (State.goodFrame State.reset 0x06 [0x00, 0x01, 0x00, 0x03]) = true ∧ (0x06 : Byte) ≠ 0x10 := by decide +kernel
theorem witness_other_function :
    (loaded [0x01, 0x04, 0x02, 0x00, 0x01, 0x78, 0xF0] 1).holdsFrame
      (State.goodFrame State.reset 0x04 [0x02, 0x00, 0x01]) = true ∧ (0x04 : Byte).getLsbD 7 = false := by
  decide +kernel
theorem witness_failed_decode : ∃ t, exec .dec State.reset = .next t ∧ t.status.getLsbD 3 = true :=
  ⟨_, rfl, by decide⟩
theorem witness_decode_ends_ok :
    (after (exec .dec (loaded [0x01, 0x03, 0x00, 0x20, 0xF0] 0))).map State.status = some Status.okRegisters.code ∧
    (after (exec .dec (loaded [0x01, 0x83, 0x02, 0xC0, 0xF1] 0))).map State.status = some Status.okException.code ∧
    (after (exec .dec (loaded [0x01, 0x06, 0x00, 0x01, 0x00, 0x03, 0x98, 0x0B] 0))).map State.status =
      some Status.okWriteack.code := by decide +kernel
theorem witness_longest_frame : ∃ t, exec .dec { State.reset with flen := 256 } = .next t ∧
    ({ State.reset with flen := 256 } : State).flen.toNat = 256 := ⟨_, rfl, by decide⟩
theorem witness_echo :
    ({ loaded [0x01, 0x06, 0x00, 0x01, 0x00, 0x03, 0x98, 0x0B] 0 with reg := 0x0001, val := 0x0003 } : State).holdsFrame
      (State.goodFrame State.reset 0x06 [0x00, 0x01, 0x00, 0x03]) = true ∧
    be16 0x00 0x01 = 0x0001 ∧ be16 0x00 0x03 = 0x0003 ∧
    ¬ (be16 0x00 0x01 = State.reset.reg ∧ be16 0x00 0x03 = State.reset.val) ∧
    ({ loaded [0x01, 0x10, 0x01, 0x00, 0x00, 0x04, 0xC0, 0x36] 0 with reg := 0x0100, cnt := 0x0004 } : State).holdsFrame
      (State.goodFrame State.reset 0x10 [0x01, 0x00, 0x00, 0x04]) = true ∧
    be16 0x01 0x00 = 0x0100 ∧ be16 0x00 0x04 = 0x0004 := by decide +kernel
theorem witness_decode_without_registers : ∃ t,
    exec .dec { loaded [0x01, 0x83, 0x02, 0xC0, 0xF1] 0 with rcnt := 6 } = .next t ∧
    t.status = Status.okException.code ∧ t.status ≠ Status.okRegisters.code ∧ 6 ≤ t.rcnt.toNat :=
  ⟨_, rfl, by decide +kernel, by decide +kernel, by decide +kernel⟩
theorem witness_error_causes : 123 < (withVals 0 (List.replicate 124 0)).cnt.toNat ∧ Instr.space .enc10 = .cmd ∧
    (∃ t, exec .enc10 (withVals 0 (List.replicate 124 0)) = .next t) ∧
    (loaded [0x02, 0x03, 0x00, 0x00] 0).fb.read? 0 = some 0x02 := ⟨by decide +kernel, rfl, ⟨_, rfl⟩, by decide⟩
theorem witness_function_code : (loaded [0x01, 0x83, 0x02, 0xC0, 0xF1] 0).fb.read? 1 = some 0x83 ∧
    decodeRsp 0x83 = some (.rspexc 0x03) := by decide

theorem witness_register_counts : (withRegs (List.replicate 5 0)).rcnt.toNat < 6 ∧
    6 ≤ (withRegs (List.replicate 6 0)).rcnt.toNat ∧ (withRegs (List.replicate 6 0)).rb.written 0 6 = true := by decide
theorem witness_document_example : 6 ≤ (withRegs [0x00FA, 0xFED4, 0x03E8, 0x01F4, 0xFA24, 0x0000]).rcnt.toNat ∧
    (withRegs [0x00FA, 0xFED4, 0x03E8, 0x01F4, 0xFA24, 0x0000]).rb.holds 0
      [0x00FA, 0xFED4, 0x03E8, 0x01F4, 0xFA24, 0x0000] = true := by decide
theorem witness_quotient : 0 < 1000 ∧ (-32768 : Int).natAbs < 2 ^ 1023 * 1000 ∧ floatFinite 0 = true := by
  decide +kernel

theorem witness_written_operands :
    State.operandsWritten .dec (loaded [0x01, 0x03, 0x00, 0x20, 0xF0] 0) = true ∧
    (loaded [0x01, 0x03, 0x00, 0x20, 0xF0] 0).buffersWf = true ∧
    State.operandsWritten .ftd (withRegs (List.replicate 6 0)) = true ∧
    State.operandsWritten .enc10 (withVals 0 [0x1234]) = true := by decide +kernel
theorem witness_same_operands : State.sameOperands .ftd State.reset { State.reset with unit := 0x33, val := 7 } :=
  ⟨rfl, rfl, fun _ _ _ => rfl⟩
theorem witness_invariant : State.reset.Inv ∧ ∃ t, step (awaiting [issue .ftd]) = .next t :=
  ⟨by unfold State.Inv; decide, ⟨_, rfl⟩⟩

end Sys2Proof.Tests
end

section
/-! SUPPORT. Non-interference: a command's end and results are determined by the operands that the access matrix marks
r (00_scope.md R8, 10_state.md R37). Each shared operation is run on two states that agree on what it reads. -/

namespace Sys2Proof.Machine

section Buffers

variable {w : Nat} {m m' : Memory w}

/-- Agreement on a range is agreement on every range within it. -/
theorem Memory.agree.mono {i n j k : Nat} (h : m.agree m' i n) (hj : i ≤ j) (hk : j + k ≤ i + n) :
    m.agree m' j k := fun a ha ha' => h a (by omega) (by omega)

/-- Buffers that agree on a range give the same read of a cell in it. -/
theorem Memory.draw_congr {i n j : Nat} (h : m.agree m' i n) (hj : i ≤ j) (hn : j < i + n) (d : Nat) :
    m.draw j d = m'.draw j d := by
  simp only [Memory.draw, h j hj hn]

/-- Buffers agree on a range just written alike, whatever they held. -/
theorem Memory.agree_writes (m m' : Memory w) (i : Nat) (vs : List (BitVec w)) {n : Nat} (hn : n ≤ vs.length) :
    (m.writes i vs).agree (m'.writes i vs) i n := by
  intro k hk hk'
  obtain ⟨a, rfl⟩ := Nat.exists_eq_add_of_le hk
  rw [Memory.read?_writes_inside m i vs (by omega), Memory.read?_writes_inside m' i vs (by omega)]

end Buffers

/-- States in which the same draws were recorded agree on them. -/
theorem State.setDraws_draws_congr (s s' : State) (d : Nat) : (s.setDraws d).draws = (s'.setDraws d).draws := rfl

/-! Each way a command ends leaves the same results in two states with the same draws. -/
section Ends

variable {s s' : State} (hd : s.draws = s'.draws)
include hd

/-- An error has no result but its status. -/
theorem State.sameResults_of_error {st : Status} (hst : st.isError = true) :
    (s.setStatus st).sameResults (s'.setStatus st) := by
  have noResult : ∀ ok : Status, ok.isError = false → (s.setStatus st).status ≠ ok.code := by
    intro ok hok he
    have : st.code.getLsbD 3 = ok.code.getLsbD 3 := congrArg (·.getLsbD 3) he
    exact absurd (hst.symm.trans (this.trans hok)) (by decide)
  exact ⟨rfl, hd, fun h => absurd h (noResult _ rfl), fun h => absurd h (noResult _ rfl),
    fun h => absurd h (noResult _ rfl), fun h => absurd h (noResult _ rfl),
    fun h => absurd h (noResult _ rfl), fun h => absurd h (noResult _ rfl)⟩

theorem emitFrame_sameResults (body : List Byte) : (emitFrame body s).sameResults (emitFrame body s') := by
  have hfb := Memory.agree_writes s.fb s'.fb 0 (withTrailer body) (Nat.mod_le _ (2 ^ 16))
  simpa [State.sameResults, emitFrame, Status.code, hd] using hfb

theorem State.setRegisters_sameResults (hc : s.cnt = s'.cnt) {values : List Word}
    (hv : values.length = s.cnt.toNat) :
    ((s.setRegisters values).setStatus .okRegisters).sameResults
      ((s'.setRegisters values).setStatus .okRegisters) := by
  have hrb := Memory.agree_writes s.rb s'.rb 0 values (n := s.cnt.toNat % 2 ^ 8)
    (hv ▸ Nat.mod_le _ _)
  simpa [State.sameResults, Status.code, hd, hc] using hrb

theorem State.setExc_sameResults (code : Byte) :
    ((s.setExc code).setStatus .okException).sameResults ((s'.setExc code).setStatus .okException) := by
  simp [State.sameResults, Status.code, hd]

theorem State.setAck_sameResults (fc : Byte) (reg dat : Word) :
    ((s.setAck fc reg dat).setStatus .okWriteack).sameResults
      ((s'.setAck fc reg dat).setStatus .okWriteack) := by
  simp [State.sameResults, Status.code, hd]

theorem State.setSample_sameResults {channels : List FloatBits} (hl : channels.length = Config.NCHAN) :
    ((s.setSample channels).setStatus .okSample).sameResults
      ((s'.setSample channels).setStatus .okSample) := by
  have hft := Memory.agree_writes s.ft s'.ft 0 channels hl.ge
  simpa [State.sameResults, Status.code, hd] using hft

theorem State.setCrcv_sameResults (v : Word) :
    ((s.setCrcv v).setStatus .okCrc).sameResults ((s'.setCrcv v).setStatus .okCrc) := by
  simp [State.sameResults, Status.code, hd]

end Ends

/-! The commands that read a buffer and do not decode a frame. -/
section Commands

variable {s s' : State} (hd : s.draws = s'.draws)
include hd

theorem emitReq10_sameResults (hu : s.unit = s'.unit) (hr : s.reg = s'.reg) (hc : s.cnt = s'.cnt)
    (hw : s.wb.agree s'.wb 0 s.cnt.toNat) : (emitReq10 s).sameResults (emitReq10 s') := by
  have hread : s'.wb.drawRange 0 s.cnt.toNat s'.draws = s.wb.drawRange 0 s.cnt.toNat s.draws := by
    rw [← hd, Memory.drawRange_congr hw]
  have hbody : ∀ values, req10Body s' values = req10Body s values := by simp [req10Body, hu, hr, hc]
  simp only [emitReq10, State.readCells_fst, State.readCells_snd, hread, hbody, ← hc]
  split
  · exact State.sameResults_of_error hd rfl
  · exact emitFrame_sameResults (State.setDraws_draws_congr _ _ _) _

theorem sumFrame_sameResults (hf : s.flen = s'.flen) (hb : s.fb.agree s'.fb 0 s.flen.toNat) :
    (sumFrame s).sameResults (sumFrame s') := by
  have hread : s'.fb.drawRange 0 s.flen.toNat s'.draws = s.fb.drawRange 0 s.flen.toNat s.draws := by
    rw [← hd, Memory.drawRange_congr hb]
  simp only [sumFrame, State.readCells_fst, State.readCells_snd, hread, ← hf]
  split
  · exact State.sameResults_of_error hd rfl
  · exact State.setCrcv_sameResults (State.setDraws_draws_congr _ _ _) _

theorem decodeSample_sameResults (hr : s.rcnt = s'.rcnt) (hb : s.rb.agree s'.rb 0 Config.NCHAN) :
    (decodeSample s).sameResults (decodeSample s') := by
  have hread : s'.rb.drawRange 0 Config.NCHAN s'.draws = s.rb.drawRange 0 Config.NCHAN s.draws := by
    rw [← hd, Memory.drawRange_congr hb]
  simp only [decodeSample, State.readCells_fst, State.readCells_snd, hread, ← hr]
  split
  · exact State.sameResults_of_error hd rfl
  · exact State.setSample_sameResults (State.setDraws_draws_congr _ _ _)
      (by rw [length_sampleFrom, Memory.length_drawRange])

end Commands

/-! The parses of a payload: of the state they read at most `CNT`. -/
section Parses

variable {s s' : State} (hd : s.draws = s'.draws) (fc : Byte) (payload : List Byte)
include hd

theorem parseException_sameResults : (parseException payload s).sameResults (parseException payload s') := by
  rcases parseException_cases payload s with ⟨code, rfl, -⟩ | ⟨hl, e⟩
  · exact State.setExc_sameResults hd code
  rcases parseException_cases payload s' with ⟨code, rfl, -⟩ | ⟨-, e'⟩
  · exact absurd rfl hl
  · rw [e, e']
    exact State.sameResults_of_error hd rfl

theorem parseAck_sameResults : (parseAck fc payload s).sameResults (parseAck fc payload s') := by
  rcases parseAck_cases fc payload s with ⟨r0, r1, d0, d1, rfl, -⟩ | ⟨hl, e⟩
  · exact State.setAck_sameResults hd fc _ _
  rcases parseAck_cases fc payload s' with ⟨r0, r1, d0, d1, rfl, -⟩ | ⟨-, e'⟩
  · exact absurd rfl hl
  · rw [e, e']
    exact State.sameResults_of_error hd rfl

theorem parseRegisters_sameResults (hc : s.cnt = s'.cnt) :
    (parseRegisters payload s).sameResults (parseRegisters payload s') := by
  cases payload with
  | nil => exact State.sameResults_of_error hd rfl
  | cons bc data =>
    simp only [parseRegisters, ← hc]
    split
    case isTrue h =>
      obtain ⟨hbc, hdata⟩ := h
      exact State.setRegisters_sameResults hd hc (by rw [length_wordsBe]; omega)
    case isFalse => exact State.sameResults_of_error hd rfl

theorem parseResponse_sameResults (hc : s.cnt = s'.cnt) :
    (parseResponse fc payload s).sameResults (parseResponse fc payload s') := by
  simp only [parseResponse]
  split_ifs
  · exact parseException_sameResults hd payload
  · exact parseRegisters_sameResults hd payload hc
  · exact parseAck_sameResults hd fc payload
  · exact State.sameResults_of_error hd rfl

/-- A parse behind a test of the function code alone is as independent as the parse. -/
theorem sameResults_ite_malformed (c : Prop) [Decidable c] {t t' : State} (h : t.sameResults t') :
    (if c then t else raise .errMalformed s).sameResults (if c then t' else raise .errMalformed s') := by
  split
  · exact h
  · exact State.sameResults_of_error hd rfl

end Parses

/-- Two answers of the checks before the payload are the same, except for the states that they were made in. -/
inductive Received.Same (s s' : State) : Received → Received → Prop where
  | rejected (st : Status) (d : Nat) (h : st.isError = true) :
      Received.Same s s' (.rejected st (s.setDraws d)) (.rejected st (s'.setDraws d))
  | accepted (fc : Byte) (payload : List Byte) (d : Nat) :
      Received.Same s s' (.accepted fc payload (s.setDraws d)) (.accepted fc payload (s'.setDraws d))

/-- The trailer check reads the frame and nothing else. -/
theorem checkTrailer_same {s s' : State} {n : Nat} (hn : 4 ≤ n) (hb : s.fb.agree s'.fb 0 n) (d : Nat) :
    Received.Same s s' (checkTrailer n d s) (checkTrailer n d s') := by
  have hbody : ∀ e, s'.fb.drawRange 0 (n - 2) e = s.fb.drawRange 0 (n - 2) e := fun e =>
    (Memory.drawRange_congr (hb.mono le_rfl (by omega)) e).symm
  have hpayload : ∀ e, s'.fb.drawRange 2 (n - 4) e = s.fb.drawRange 2 (n - 4) e := fun e =>
    (Memory.drawRange_congr (hb.mono (by omega) (by omega)) e).symm
  have hcell : ∀ j < n, ∀ e, s'.fb.draw j e = s.fb.draw j e := fun j hj e =>
    (Memory.draw_congr hb (Nat.zero_le j) (by omega) e).symm
  simp only [checkTrailer, hbody, hpayload, hcell (n - 2) (by omega), hcell (n - 1) (by omega),
    hcell 1 (by omega)]
  split
  · exact .rejected _ _ rfl
  · exact .accepted _ _ _

section Frames

variable {s s' : State} (hd : s.draws = s'.draws) (hu : s.unit = s'.unit) (hf : s.flen = s'.flen)
  (hb : s.fb.agree s'.fb 0 s.flen.toNat)
include hd hu hf hb

/-- The checks before the payload read `UNIT`, `FLEN` and the frame and nothing else. -/
theorem receive_same : Received.Same s s' (receive s) (receive s') := by
  have hself : s' = s'.setDraws s.draws := by rw [hd, State.setDraws_self]
  simp only [receive, ← hf]
  split
  · rw [hself]
    exact .rejected _ s.draws rfl
  split
  · rw [hself]
    exact .rejected _ s.draws rfl
  have h4 : 4 ≤ s.flen.toNat := Nat.le_of_not_lt ‹_›
  simp only [← hd, ← hu, ← Memory.draw_congr hb (Nat.zero_le 0) (by omega)]
  split
  · exact .rejected _ _ rfl
  · exact checkTrailer_same h4 hb _

/-- A decode is as independent as its parse. -/
theorem decodeWith_sameResults {parse : Byte → List Byte → State → State}
    (hp : ∀ fc payload d, (parse fc payload (s.setDraws d)).sameResults (parse fc payload (s'.setDraws d))) :
    (decodeWith parse s).sameResults (decodeWith parse s') := by
  have h := receive_same hd hu hf hb
  simp only [decodeWith]
  generalize receive s = r, receive s' = r' at h ⊢
  cases h with
  | rejected st d h => exact State.sameResults_of_error (State.setDraws_draws_congr s s' d) h
  | accepted fc payload d => exact hp fc payload d

end Frames

/-- Settles O52: instruction by instruction, on two states that agree on the columns marked r. -/
theorem resultsDependOnOperandsOnly : Obligations.ResultsDependOnOperandsOnly := by
  intro i s s' ⟨hd, h⟩
  have hdraws := State.setDraws_draws_congr s s'
  cases i with
  | enc03 | req03 =>
    obtain ⟨hu, hr, hc⟩ := h
    have hbody : req03Body s' = req03Body s := by simp [req03Body, hu, hr, hc]
    exact ⟨_, _, rfl, rfl, hbody ▸ emitFrame_sameResults hd _⟩
  | enc06 | req06 =>
    obtain ⟨hu, hr, hv⟩ := h
    have hbody : req06Body s' = req06Body s := by simp [req06Body, hu, hr, hv]
    exact ⟨_, _, rfl, rfl, hbody ▸ emitFrame_sameResults hd _⟩
  | enc10 | req10 =>
    obtain ⟨hu, hr, hc, hw⟩ := h
    exact ⟨_, _, rfl, rfl, emitReq10_sameResults hd hu hr hc hw⟩
  | ftd =>
    obtain ⟨hr, hb⟩ := h
    exact ⟨_, _, rfl, rfl, decodeSample_sameResults hd hr hb⟩
  | crc =>
    obtain ⟨hf, hb⟩ := h
    exact ⟨_, _, rfl, rfl, sumFrame_sameResults hd hf hb⟩
  | dec =>
    obtain ⟨hu, hc, hf, hb⟩ := h
    exact ⟨_, _, rfl, rfl, decodeWith_sameResults hd hu hf hb fun fc payload d =>
      parseResponse_sameResults (hdraws d) fc payload hc⟩
  | rsp03 =>
    obtain ⟨hu, hc, hf, hb⟩ := h
    exact ⟨_, _, rfl, rfl, decodeWith_sameResults hd hu hf hb fun _ payload d =>
      sameResults_ite_malformed (hdraws d) _ (parseRegisters_sameResults (hdraws d) payload hc)⟩
  | rsp06 | rsp10 =>
    obtain ⟨hu, hf, hb⟩ := h
    exact ⟨_, _, rfl, rfl, decodeWith_sameResults hd hu hf hb fun fc payload d =>
      sameResults_ite_malformed (hdraws d) _ (parseAck_sameResults (hdraws d) fc payload)⟩
  | rspexc low =>
    obtain ⟨hu, hf, hb⟩ := h
    exact ⟨_, _, rfl, rfl, decodeWith_sameResults hd hu hf hb fun _ payload d =>
      sameResults_ite_malformed (hdraws d) _ (parseException_sameResults (hdraws d) payload)⟩

end Sys2Proof.Machine
end

section
/-! SUPPORT. The values that reset and the status table list: reset meets the invariant, and a status code names one
status (10_state.md R25, R38). -/

namespace Sys2Proof.Machine

/-- Settles O1, value by value. -/
theorem resetHoldsListedValues : Obligations.ResetHoldsListedValues :=
  ⟨rfl, rfl, rfl, rfl, rfl, rfl, rfl, rfl, rfl, rfl, rfl, rfl, rfl, crc16_nil.symm,
    fun _ => ⟨Memory.read?_nil _, Memory.read?_nil _, Memory.read?_nil _, Memory.read?_nil _⟩⟩

/-- Settles O58, part by part of the invariant. -/
theorem resetMeetsTheInvariant : Obligations.ResetMeetsTheInvariant :=
  ⟨State.reset_buffersWf, by decide, by decide, by decide, by decide⟩

/-- The list of statuses holds every status once: a search for its code finds it. -/
theorem Status.find?_code (st : Status) : Status.all.find? (fun st' => st'.code == st.code) = some st := by
  cases st <;> rfl

theorem Status.code_injective : Function.Injective Status.code := by
  intro st st' h
  have hfind := Status.find?_code st
  rw [h, Status.find?_code st'] at hfind
  exact (Option.some.inj hfind).symm

/-- Settles O60: the codes are the listed ones, a search by code finds one status, and bit 3 is read off each code. -/
theorem statusCodesAreDistinct : Obligations.StatusCodesAreDistinct := by
  refine ⟨⟨rfl, rfl, rfl, rfl, rfl, rfl, rfl, rfl, rfl, rfl, rfl, rfl, rfl, rfl⟩,
    fun _ _ h => Status.code_injective h, fun st => ?_⟩
  cases st <;> decide

end Sys2Proof.Machine
end

section
/-! SUPPORT. Register numbers and registers determine each other (10_state.md R23). -/

namespace Sys2Proof.Machine

/-- The register that a number names is the one with that number. -/
@[simp] theorem HostReg.ofNumber_number (r : HostReg) : HostReg.ofNumber r.number = some r := by
  cases r with
  | fb i =>
    simp [HostReg.ofNumber, HostReg.number]
  | wb i =>
    rw [HostReg.ofNumber, HostReg.number, if_neg (by omega), dif_neg (by omega), dif_pos (by omega)]
    simp
  | rb i =>
    rw [HostReg.ofNumber, HostReg.number, if_neg (by omega), dif_neg (by omega), dif_neg (by omega),
      if_neg (by omega), dif_pos (by omega)]
    simp
  | ft i =>
    rw [HostReg.ofNumber, HostReg.number, if_neg (by omega), dif_neg (by omega), dif_neg (by omega),
      if_neg (by omega), dif_neg (by omega), if_neg (by omega), dif_pos (by omega)]
    simp
  | _ => rfl

/-- The list of scalars is in the order of their numbers. -/
theorem HostReg.number_scalars : ∀ n : Fin 13, (HostReg.scalars[n]).number = n := by decide

/-- A number that names a register is the register's number. -/
theorem HostReg.number_of_ofNumber {n : Nat} {r : HostReg} (h : HostReg.ofNumber n = some r) : r.number = n := by
  unfold HostReg.ofNumber at h
  split at h
  case isTrue =>
    obtain ⟨hn, rfl⟩ := List.getElem?_eq_some_iff.1 h
    exact HostReg.number_scalars ⟨n, hn⟩
  case isFalse =>
    split_ifs at h <;> obtain rfl := Option.some.inj h <;> simp only [HostReg.number] <;> omega

/-- Settles O8, from the two directions of the one-to-one correspondence; the numbers and widths are read off. -/
theorem registerNumbersAreOneToOne : Obligations.RegisterNumbersAreOneToOne :=
  ⟨HostReg.ofNumber_number, fun _ _ => HostReg.number_of_ofNumber,
    ⟨rfl, rfl, rfl, rfl, rfl, rfl, rfl, rfl, rfl, rfl, rfl, rfl, rfl⟩,
    fun _ => rfl, fun _ => rfl, fun _ => rfl, fun _ => rfl⟩

end Sys2Proof.Machine
end

section
/-! SUPPORT. Host accesses: what a read returns, what a write sets and leaves, which accesses are refused
(10_state.md R21; 93_implementation_defined.md U7, U8). -/

namespace Sys2Proof.Machine

/-! A step with an event pending is that event. -/
section Steps

variable {s : State} {rest : List Event}

theorem step_of_pending {e : Event} (h : s.pending = e :: rest) : step s = perform e (s.takeEvent rest) := by
  simp only [step, h]

theorem step_of_read {n : Nat} (h : s.pending = .read n :: rest) : step s = hostRead n (s.takeEvent rest) :=
  step_of_pending h

theorem step_of_write {n v : Nat} (h : s.pending = .write n v :: rest) : step s = hostWrite n v (s.takeEvent rest) :=
  step_of_pending h

end Steps

/-! The answers to an access. -/
section Answers

variable (s : State) (r : HostReg) {n v : Nat}

theorem hostRead_number : hostRead r.number s = .next ((s.readReg r).2.reply r.number (s.readReg r).1) := by
  simp only [hostRead, HostReg.ofNumber_number]

theorem hostRead_of_unassigned (h : HostReg.ofNumber n = none) : hostRead n s = .refused (.unassignedNumber n) := by
  simp only [hostRead, h]

theorem hostWrite_of_unassigned (h : HostReg.ofNumber n = none) :
    hostWrite n v s = .refused (.unassignedNumber n) := by
  simp only [hostWrite, h]

theorem hostWrite_of_tooWide (h : 2 ^ r.width ≤ v) :
    hostWrite r.number v s = .refused (.valueTooWide r.number v) := by
  simp only [hostWrite, HostReg.ofNumber_number, if_neg (Nat.not_lt.2 h)]

theorem hostWrite_of_fits {r : HostReg} (hr : r ≠ .cmd) (h : v < 2 ^ r.width) :
    hostWrite r.number v s = .next (s.writeReg r v) := by
  simp only [hostWrite, HostReg.ofNumber_number, if_pos h, if_neg hr]

theorem hostWrite_cmd (c : Byte) : hostWrite 0x000 c.toNat s = runCommand { s with cmd := c } := by
  have hstore : s.writeReg .cmd c.toNat = { s with cmd := c } := by simp [State.writeReg]
  rw [← hstore]
  exact if_pos c.isLt

end Answers

/-! Reading and writing a register, in the terms of `valueOf?`. -/
section Values

variable (s : State) (r : HostReg)

/-- A read draws at most; of the block it changes nothing. -/
theorem State.readReg_snd : ∃ d, (s.readReg r).2 = s.setDraws d := by
  cases r <;> exact ⟨_, rfl⟩

theorem State.readReg_of_valueOf? {s : State} {r : HostReg} {v : Nat} (h : s.valueOf? r = some v) :
    s.readReg r = (v, s) := by
  cases r with
  | fb i | wb i | rb i | ft i =>
    obtain ⟨x, hx, rfl⟩ := Option.map_eq_some_iff.1 h
    simp [State.readReg, Memory.draw_of_read? hx]
  | _ => exact congrArg (·, s) (Option.some.inj h)

theorem State.readReg_of_unwritten {s : State} {r : HostReg} (h : s.valueOf? r = none) :
    s.readReg r = ((Config.freeCell r.width s.draws).toNat, s.setDraws (s.draws + 1)) := by
  cases r with
  | fb i | wb i | rb i | ft i =>
    have hx := Option.map_eq_none_iff.1 h
    simp [State.readReg, Memory.draw_of_unwritten hx, HostReg.width]
  | _ => cases h

@[simp] theorem State.valueOf?_takeEvent (rest : List Event) : (s.takeEvent rest).valueOf? r = s.valueOf? r := by
  cases r <;> rfl

theorem State.valueOf?_writeReg_self {r : HostReg} {v : Nat} (hw : r.writable = true) (hv : v < 2 ^ r.width) :
    (s.writeReg r v).valueOf? r = some v := by
  cases r with
  | fb i | wb i | rb i =>
    simpa [State.writeReg, State.valueOf?, Memory.read?_write_self, HostReg.width] using hv
  | status | exc | ackfc | ackreg | ackdat | crcv | ft => cases hw
  | _ => simpa [State.writeReg, State.valueOf?, HostReg.width] using hv

/-- Every other register is another field of the state, or another cell of the same buffer. -/
theorem State.valueOf?_writeReg_ne (v : Nat) {r r' : HostReg} (h : r' ≠ r) :
    (s.writeReg r v).valueOf? r' = s.valueOf? r' := by
  cases r with
  | status | exc | ackfc | ackreg | ackdat | crcv | ft => rfl
  | fb i =>
    cases r' with
    | fb j =>
      have hij : j.val ≠ i.val := fun e => h (congrArg HostReg.fb (Fin.ext e))
      exact congrArg (Option.map BitVec.toNat) (s.fb.read?_write_ne _ hij)
    | _ => rfl
  | wb i =>
    cases r' with
    | wb j =>
      have hij : j.val ≠ i.val := fun e => h (congrArg HostReg.wb (Fin.ext e))
      exact congrArg (Option.map BitVec.toNat) (s.wb.read?_write_ne _ hij)
    | _ => rfl
  | rb i =>
    cases r' with
    | rb j =>
      have hij : j.val ≠ i.val := fun e => h (congrArg HostReg.rb (Fin.ext e))
      exact congrArg (Option.map BitVec.toNat) (s.rb.read?_write_ne _ hij)
    | _ => rfl
  | _ => cases r' <;> first | rfl | exact absurd rfl h

theorem State.writeReg_of_readOnly {r : HostReg} (h : r.writable = false) (v : Nat) : s.writeReg r v = s := by
  cases r with
  | status | exc | ackfc | ackreg | ackdat | crcv | ft => rfl
  | _ => cases h

theorem State.writeReg_modelFields (v : Nat) : (s.writeReg r v).pending = s.pending ∧
    (s.writeReg r v).replies = s.replies ∧ (s.writeReg r v).draws = s.draws := by
  cases r <;> exact ⟨rfl, rfl, rfl⟩

theorem State.writeReg_status (v : Nat) : (s.writeReg r v).status = s.status := by
  cases r <;> rfl

theorem State.writeReg_cmd {r : HostReg} (h : r ≠ .cmd) (v : Nat) : (s.writeReg r v).cmd = s.cmd := by
  cases r with
  | cmd => exact absurd rfl h
  | _ => rfl

end Values

theorem HostReg.ne_cmd_of_readOnly {r : HostReg} (h : r.writable = false) : r ≠ .cmd := by
  rintro rfl
  cases h

/-- Settles O11: with no event pending the step has nothing to perform. -/
theorem blockWaitsForTheHost : Obligations.BlockWaitsForTheHost := by
  intro s h
  simp only [step, h]

/-- Settles O12, by the rule for the read of a held value. -/
theorem hostReadReturnsTheValueHeld : Obligations.HostReadReturnsTheValueHeld := by
  intro s r v rest hp hv
  have hread : (s.takeEvent rest).readReg r = (v, s.takeEvent rest) := State.readReg_of_valueOf? (by simpa using hv)
  rw [step_of_read hp, hostRead_number, hread]
  rfl

/-- Settles O13, by the rule for the read of an unwritten cell. -/
theorem hostReadOfUnwrittenCellDrawsAfresh : Obligations.HostReadOfUnwrittenCellDrawsAfresh := by
  intro s r rest hp hv
  have hread := State.readReg_of_unwritten (s := s.takeEvent rest) (r := r) (by simpa using hv)
  rw [step_of_read hp, hostRead_number, hread]
  rfl

/-- Settles O14, by the rules for the register written and for every other one. -/
theorem hostWriteSetsItsRegisterOnly : Obligations.HostWriteSetsItsRegisterOnly := by
  intro s r v rest hp hw hr hv
  refine ⟨(s.takeEvent rest).writeReg r v, ?_, State.valueOf?_writeReg_self _ hw hv, fun r' hne => ?_,
    State.writeReg_modelFields _ r v⟩
  · rw [step_of_write hp, hostWrite_of_fits _ hr hv]
  · rw [State.valueOf?_writeReg_ne _ v hne, State.valueOf?_takeEvent]

/-- Settles O15: a fitting value is answered with a write, which a read-only register ignores. -/
theorem readOnlyRegistersIgnoreWrites : Obligations.ReadOnlyRegistersIgnoreWrites := by
  refine ⟨fun s r v rest hp hr hv => ?_, fun r => ?_⟩
  · rw [step_of_write hp, hostWrite_of_fits _ (HostReg.ne_cmd_of_readOnly hr) hv, State.writeReg_of_readOnly _ hr]
    rfl
  · cases r <;> simp [HostReg.writable]

/-- Settles O16, refusal by refusal. -/
theorem unspecifiedAccessesAreRefused : Obligations.UnspecifiedAccessesAreRefused := by
  refine ⟨fun s n rest hn => ⟨fun hp => ?_, fun v hp => ?_⟩, fun s r v rest hp hv => ?_⟩
  · rw [step_of_read hp, hostRead_of_unassigned _ hn]
  · rw [step_of_write hp, hostWrite_of_unassigned _ hn]
  · rw [step_of_write hp, hostWrite_of_tooWide _ r hv]

/-- A write that is answered and does not go to `CMD` has stored a value in another register. -/
theorem hostWrite_answer {s t : State} {n v : Nat} (h : hostWrite n v s = .next t) (hn : n ≠ HostReg.cmd.number) :
    ∃ r : HostReg, r ≠ .cmd ∧ t = s.writeReg r v := by
  cases hr : HostReg.ofNumber n with
  | none =>
    rw [hostWrite_of_unassigned s hr] at h
    cases h
  | some r =>
    obtain rfl := HostReg.number_of_ofNumber hr
    have hcmd : r ≠ .cmd := fun e => hn (congrArg HostReg.number e)
    by_cases hv : v < 2 ^ r.width
    · rw [hostWrite_of_fits s hcmd hv] at h
      cases h
      exact ⟨r, hcmd, rfl⟩
    · rw [hostWrite_of_tooWide s r (Nat.le_of_not_lt hv)] at h
      cases h

/-- A read that is answered has recorded a reply, and drawn at most. -/
theorem hostRead_answer {s t : State} {n : Nat} (h : hostRead n s = .next t) :
    ∃ d v, t = (s.setDraws d).reply n v := by
  cases hr : HostReg.ofNumber n with
  | none =>
    rw [hostRead_of_unassigned s hr] at h
    cases h
  | some r =>
    obtain rfl := HostReg.number_of_ofNumber hr
    obtain ⟨d, hd⟩ := s.readReg_snd r
    rw [hostRead_number, hd] at h
    cases h
    exact ⟨d, _, rfl⟩

/-- Settles O19: a read writes no register, and a write to a register other than `CMD` neither of the two. -/
theorem onlyCommandsWriteStatus : Obligations.OnlyCommandsWriteStatus := by
  intro s t e rest hp hs hreset hcmd
  cases e with
  | write n v =>
    rw [step_of_write hp] at hs
    obtain ⟨r, hr, rfl⟩ := hostWrite_answer hs fun hn => hcmd v (congrArg (Event.write · v) hn)
    exact ⟨State.writeReg_status _ r v, State.writeReg_cmd _ hr v⟩
  | read n =>
    rw [step_of_read hp] at hs
    obtain ⟨d, v, rfl⟩ := hostRead_answer hs
    exact ⟨rfl, rfl⟩
  | reset => exact absurd rfl hreset

end Sys2Proof.Machine
end

section
/-! SUPPORT. What a command may change: the columns marked w in the access matrix, and of a buffer the cells of its own
result (10_state.md R31 to R37). -/

namespace Sys2Proof.Machine

/-! What each parse of a payload may change. -/
section ParseFrames

variable (fc : Byte) (payload : List Byte) (s : State)

theorem parseException_frame : ∃ exc status, parseException payload s = { s with exc, status } := by
  rcases parseException_cases payload s with ⟨code, -, e⟩ | ⟨-, e⟩
  · exact ⟨code, _, e⟩
  · exact ⟨s.exc, _, e⟩

theorem parseRegisters_frame : ∃ rb rcnt status, parseRegisters payload s = { s with rb, rcnt, status } := by
  rcases parseRegisters_cases payload s with ⟨_, data, -, -, -, e⟩ | e
  · exact ⟨s.rb.writes 0 (wordsBe data), s.cnt.setWidth 8, _, e⟩
  · exact ⟨s.rb, s.rcnt, _, e⟩

theorem parseAck_frame : ∃ ackfc ackreg ackdat status,
    parseAck fc payload s = { s with ackfc, ackreg, ackdat, status } := by
  rcases parseAck_cases fc payload s with ⟨r0, r1, d0, d1, -, e⟩ | ⟨-, e⟩
  · exact ⟨fc, be16 r0 r1, be16 d0 d1, _, e⟩
  · exact ⟨s.ackfc, s.ackreg, s.ackdat, _, e⟩

end ParseFrames

/-- What holds of every end of the checks, and of the parse of whatever they accept, holds of a decode. -/
theorem decodeWith_induction {P : State → Prop} {parse : Byte → List Byte → State → State} {s : State}
    (hcheck : ∀ d st, P ((s.setDraws d).setStatus st))
    (hparse : ∀ fc payload d, P (parse fc payload (s.setDraws d))) : P (decodeWith parse s) := by
  rcases decodeWith_cases parse s with ⟨-, e⟩ | ⟨-, e⟩ | ⟨-, -, ⟨d, e⟩ | ⟨d, e⟩ | ⟨fc, payload, d, -, e⟩⟩ <;> rw [e]
  · exact hcheck s.draws _
  · exact hcheck s.draws _
  · exact hcheck d _
  · exact hcheck d _
  · exact hparse fc payload d

theorem emitReq10_onlyResultsChanged (s : State) : s.onlyResultsChanged .enc10 (emitReq10 s) := by
  rcases emitReq10_cases s with ⟨-, e⟩ | ⟨-, values, d, -, e⟩ <;> rw [e] <;> exact rfl

/-- Settles O50, row by row of the access matrix. -/
theorem commandsWriteOnlyTheirResults : Obligations.CommandsWriteOnlyTheirResults := by
  intro i s t h
  cases i with
  | enc03 | enc06 | req03 | req06 =>
    obtain rfl := Host.Outcome.next.inj h
    exact rfl
  | enc10 | req10 =>
    obtain rfl := Host.Outcome.next.inj h
    exact emitReq10_onlyResultsChanged s
  | dec =>
    obtain ⟨u, hu, hend⟩ := execDec_end s
    obtain rfl := Host.Outcome.next.inj (h.symm.trans hu)
    cases hend <;> exact rfl
  | ftd =>
    obtain rfl := Host.Outcome.next.inj h
    rcases decodeSample_cases s with ⟨-, e⟩ | ⟨-, values, d, -, e⟩ <;> rw [e] <;> exact rfl
  | crc =>
    obtain rfl := Host.Outcome.next.inj h
    rcases sumFrame_cases s with ⟨-, e⟩ | ⟨-, bytes, d, -, e⟩ <;> rw [e] <;> exact rfl
  | rsp03 =>
    obtain rfl := Host.Outcome.next.inj h
    refine decodeWith_induction (fun d st => rfl) fun fc payload d => ?_
    obtain ⟨rb, rcnt, status, e⟩ := parseRegisters_frame payload (s.setDraws d)
    rw [parseAsRsp03, e]
    split <;> exact rfl
  | rsp06 =>
    obtain rfl := Host.Outcome.next.inj h
    refine decodeWith_induction (fun d st => rfl) fun fc payload d => ?_
    obtain ⟨ackfc, ackreg, ackdat, status, e⟩ := parseAck_frame fc payload (s.setDraws d)
    rw [parseAsRsp06, e]
    split <;> exact rfl
  | rsp10 =>
    obtain rfl := Host.Outcome.next.inj h
    refine decodeWith_induction (fun d st => rfl) fun fc payload d => ?_
    obtain ⟨ackfc, ackreg, ackdat, status, e⟩ := parseAck_frame fc payload (s.setDraws d)
    rw [parseAsRsp10, e]
    split <;> exact rfl
  | rspexc low =>
    obtain rfl := Host.Outcome.next.inj h
    refine decodeWith_induction (fun d st => rfl) fun fc payload d => ?_
    obtain ⟨exc, status, e⟩ := parseException_frame payload (s.setDraws d)
    rw [parseAsRspexc, e]
    split <;> exact rfl

/-- The access matrix marks `CMD` w for no command (10_state.md R26, R37). -/
theorem State.onlyResultsChanged.cmd_eq {i : Instr} {s t : State} (h : s.onlyResultsChanged i t) : t.cmd = s.cmd := by
  cases i <;> (unfold State.onlyResultsChanged at h; rw [h])

/-- No command that receives a frame writes the frame or its operands (10_state.md R37). -/
theorem State.onlyResultsChanged.frame_eq {i : Instr} (hi : i = .dec ∨ i.space = .rsp) {s t : State}
    (h : s.onlyResultsChanged i t) : t.unit = s.unit ∧ t.flen = s.flen ∧ t.fb = s.fb := by
  cases i with
  | dec | rsp03 | rsp06 | rsp10 | rspexc =>
    unfold State.onlyResultsChanged at h
    rw [h]
    exact ⟨rfl, rfl, rfl⟩
  | _ => simp [Instr.space] at hi

/-- A row of the table builds a request, receives a response, or is `FTD` or `CRC`. -/
theorem Instr.kinds (i : Instr) : (i = .enc03 ∨ i = .enc06 ∨ i = .enc10 ∨ i.space = .req) ∨
    (i = .dec ∨ i.space = .rsp) ∨ i = .ftd ∨ i = .crc := by
  cases i <;> simp [Instr.space]

/-- The kinds of end: of building a request, of receiving a response, of `FTD`, of `CRC`. -/
theorem exec_end {i : Instr} {s t : State} (h : exec i s = .next t) :
    EncodeEnd s t ∨ DecodeEnd s t ∨ t = decodeSample s ∨ t = sumFrame s := by
  rcases Instr.kinds i with hi | (rfl | hi) | rfl | rfl
  · obtain ⟨u, hu, hend⟩ := execEncode_end i hi s
    obtain rfl := Host.Outcome.next.inj (h.symm.trans hu)
    exact .inl hend
  · obtain ⟨u, hu, hend⟩ := execDec_end s
    obtain rfl := Host.Outcome.next.inj (h.symm.trans hu)
    exact .inr (.inl hend)
  · obtain ⟨u, hu, hend⟩ := execRsp_end i hi s
    obtain rfl := Host.Outcome.next.inj (h.symm.trans hu)
    exact .inr (.inl hend)
  · exact .inr (.inr (.inl (Host.Outcome.next.inj h).symm))
  · exact .inr (.inr (.inr (Host.Outcome.next.inj h).symm))

/-- Every cell reads as before, except those of the result that the new `STATUS` announces (10_state.md R32 to R35). -/
def State.otherCellsKept (s t : State) : Prop :=
  ∀ a, t.wb.read? a = s.wb.read? a ∧
    ((t.status ≠ Status.okFrame.code ∨ t.flen.toNat ≤ a) → t.fb.read? a = s.fb.read? a) ∧
    ((t.status ≠ Status.okRegisters.code ∨ t.rcnt.toNat ≤ a) → t.rb.read? a = s.rb.read? a) ∧
    ((t.status ≠ Status.okSample.code ∨ 6 ≤ a) → t.ft.read? a = s.ft.read? a)

section OtherCells

variable (s : State) (d : Nat)

/-- A status announced, and cells at or past the length of what was written. -/
theorem Memory.read?_writes_of_announced {w : Nat} (m : Memory w) {vs : List (BitVec w)} (st : Status) {n : Nat}
    (hn : vs.length ≤ n) (a : Nat) (h : st.code ≠ st.code ∨ n ≤ a) : (m.writes 0 vs).read? a = m.read? a := by
  have ha : n ≤ a := h.resolve_left fun hne => hne rfl
  exact Memory.read?_writes_outside m 0 vs (.inr (by omega))

theorem State.otherCellsKept_placeFrame {frame : List Byte} (h : frame.length ≤ 256) :
    s.otherCellsKept (((s.setDraws d).placeFrame frame).setStatus .okFrame) := by
  have hlen : frame.length ≤ (BitVec.ofNat 16 frame.length).toNat := by
    rw [BitVec.toNat_ofNat]
    omega
  exact fun a => ⟨rfl, s.fb.read?_writes_of_announced .okFrame hlen a, fun _ => rfl, fun _ => rfl⟩

theorem State.otherCellsKept_setRegisters {values : List Word} (hv : values.length = s.cnt.toNat)
    (hc : s.cnt.toNat ≤ 125) :
    s.otherCellsKept (((s.setDraws d).setRegisters values).setStatus .okRegisters) := by
  have hlen : values.length ≤ (s.cnt.setWidth 8).toNat := by
    rw [BitVec.toNat_setWidth]
    omega
  exact fun a => ⟨rfl, fun _ => rfl, s.rb.read?_writes_of_announced .okRegisters hlen a, fun _ => rfl⟩

theorem State.otherCellsKept_setSample {channels : List FloatBits} (hl : channels.length = 6) :
    s.otherCellsKept (((s.setDraws d).setSample channels).setStatus .okSample) :=
  fun a => ⟨rfl, fun _ => rfl, fun _ => rfl, s.ft.read?_writes_of_announced .okSample hl.le a⟩

end OtherCells

theorem EncodeEnd.otherCellsKept {s t : State} (h : EncodeEnd s t) : s.otherCellsKept t := by
  cases h with
  | error => exact fun a => ⟨rfl, fun _ => rfl, fun _ => rfl, fun _ => rfl⟩
  | frame fc payload d h =>
    refine s.otherCellsKept_placeFrame d ?_
    simp only [length_withTrailer, List.length_cons]
    omega

theorem DecodeEnd.otherCellsKept {s t : State} (h : DecodeEnd s t) : s.otherCellsKept t := by
  cases h with
  | registers values d hv hc => exact s.otherCellsKept_setRegisters d hv hc
  | _ => exact fun a => ⟨rfl, fun _ => rfl, fun _ => rfl, fun _ => rfl⟩

theorem decodeSample_otherCellsKept (s : State) : s.otherCellsKept (decodeSample s) := by
  rcases decodeSample_cases s with ⟨-, e⟩ | ⟨-, values, d, hv, e⟩ <;> rw [e]
  · exact fun a => ⟨rfl, fun _ => rfl, fun _ => rfl, fun _ => rfl⟩
  · have hl : values.length = 6 := by simpa using congrArg (fun p => p.1.length) hv
    exact s.otherCellsKept_setSample d (by rw [length_sampleFrom, hl])

theorem sumFrame_otherCellsKept (s : State) : s.otherCellsKept (sumFrame s) := by
  rcases sumFrame_cases s with ⟨-, e⟩ | ⟨-, bytes, d, -, e⟩ <;> rw [e] <;>
    exact fun a => ⟨rfl, fun _ => rfl, fun _ => rfl, fun _ => rfl⟩

/-- Settles O51, by the kinds of end. -/
theorem cellsOutsideTheResultAreUnchanged : Obligations.CellsOutsideTheResultAreUnchanged := by
  intro i s t h
  rcases exec_end h with hend | hend | rfl | rfl
  · exact hend.otherCellsKept
  · exact hend.otherCellsKept
  · exact decodeSample_otherCellsKept s
  · exact sumFrame_otherCellsKept s

end Sys2Proof.Machine
end

section
/-! SUPPORT. A write to `CMD` runs the command of its code (10_state.md R26, 30_encoding.md R70). -/

namespace Sys2Proof.Machine

theorem runCommand_of_defined {s : State} {i : Instr} (h : decodeCmd s.cmd = some i) : runCommand s = exec i s := by
  simp only [runCommand, h]

theorem runCommand_of_undefined {s : State} (h : decodeCmd s.cmd = none) :
    runCommand s = .next (s.setStatus .errCmd) := by
  simp only [runCommand, h, raise_eq_setStatus]

theorem step_of_write_cmd {s : State} {c : Byte} {rest : List Event} (h : s.pending = .write 0x000 c.toNat :: rest) :
    step s = runCommand { s with pending := rest, cmd := c } := by
  rw [step_of_write h, hostWrite_cmd]
  rfl

/-- Settles O9: the write runs the decoded command, which keeps `CMD`, and a read returns what is held there. -/
theorem writingCmdRunsTheCommand : Obligations.WritingCmdRunsTheCommand := by
  refine ⟨fun s c rest hp => ⟨fun i hi => ?_, fun hc => ?_⟩,
    fun i s t h => (commandsWriteOnlyTheirResults i s t h).cmd_eq,
    fun s rest hp => hostReadReturnsTheValueHeld s .cmd _ rest hp rfl, rfl⟩
  · rw [step_of_write_cmd hp, runCommand_of_defined hi]
  · rw [step_of_write_cmd hp, runCommand_of_undefined hc]
    rfl

/-- The command that a word of the table decodes to is the one of its low byte. -/
theorem decodeCmd_of_decodeTableWord {nbits w : Nat} {i : Instr} (h : decodeTableWord nbits w = some i) :
    decodeCmd (BitVec.ofNat 8 (w % 2 ^ nbits)) = some i := by
  unfold decodeTableWord at h
  cases hn : (nbits + 7) / 8 with
  | zero =>
    rw [hn] at h
    cases h
  | succ n =>
    rw [hn, tableBytes, decode] at h
    cases hc : decodeCmd (BitVec.ofNat 8 (w % 2 ^ nbits)) with
    | none => simp [hc] at h
    | some j => simpa [hc] using h

/-- Settles O10: the fetch word is a write to `CMD` of the byte that is decoded. -/
theorem stepRunsTheDecodedInstruction : Obligations.StepRunsTheDecodedInstruction := by
  intro s nbits w i h
  have hbyte : (BitVec.ofNat 8 (w % 2 ^ nbits)).toNat = w % 2 ^ nbits % 256 := BitVec.toNat_ofNat _ _
  have hp : (s.withFetchWord nbits w).pending =
      .write 0x000 (BitVec.ofNat 8 (w % 2 ^ nbits)).toNat :: s.pending := by
    rw [hbyte]
    rfl
  rw [step_of_write_cmd hp]
  exact runCommand_of_defined (decodeCmd_of_decodeTableWord h)

end Sys2Proof.Machine
end

section
/-! SUPPORT. A command on written operands, and the same command again at once (10_state.md R36, R38; 20_memory.md R57).
Its reads draw nothing, so the second run reads what the first one read, and it writes what is written already. -/

namespace Sys2Proof.Machine

section Buffers

variable {w : Nat}

theorem Memory.write_write_self (m : Memory w) (i : Nat) (v : BitVec w) : (m.write i v).write i v = m.write i v := by
  induction m with
  | nil => simp [Memory.write]
  | cons c m ih =>
    obtain ⟨k, x⟩ := c
    rcases Nat.lt_trichotomy i k with hik | rfl | hki
    · simp [Memory.write, hik]
    · simp [Memory.write]
    · simp [Memory.write, hki.not_gt, hki.ne', ih]

/-- Writes of two cells can be exchanged: each puts its cell where the indexes say. -/
theorem Memory.write_write_comm (m : Memory w) {i j : Nat} (hij : i < j) (u v : BitVec w) :
    (m.write i u).write j v = (m.write j v).write i u := by
  induction m with
  | nil => simp [Memory.write, hij, hij.ne', hij.not_gt]
  | cons c m ih =>
    obtain ⟨k, x⟩ := c
    rcases Nat.lt_trichotomy j k with hjk | rfl | hkj
    · simp [Memory.write, hij, hij.trans hjk, hjk, hij.ne', hij.not_gt]
    · simp [Memory.write, hij, hij.ne', hij.not_gt]
    · rcases Nat.lt_trichotomy i k with hik | rfl | hki
      · simp [Memory.write, hij.ne', hij.not_gt, hik, hkj.not_gt, hkj.ne']
      · simp [Memory.write, hkj.not_gt, hkj.ne']
      · simp [Memory.write, hki.not_gt, hki.ne', hkj.not_gt, hkj.ne', ih]

theorem Memory.write_writes_comm (m : Memory w) {i j : Nat} (hij : i < j) (u : BitVec w) (vs : List (BitVec w)) :
    (m.writes j vs).write i u = (m.write i u).writes j vs := by
  induction vs generalizing m j with
  | nil => rfl
  | cons v vs ih =>
    rw [Memory.writes_cons, Memory.writes_cons, ih _ (by omega), Memory.write_write_comm m hij]

/-- Writing a range twice is writing it once. -/
theorem Memory.writes_writes_self (m : Memory w) (i : Nat) (vs : List (BitVec w)) :
    (m.writes i vs).writes i vs = m.writes i vs := by
  induction vs generalizing m i with
  | nil => rfl
  | cons v vs ih =>
    rw [Memory.writes_cons, Memory.writes_cons, Memory.write_writes_comm _ (Nat.lt_succ_self i),
      Memory.write_write_self, ih]

/-- `written` cell by cell. -/
theorem Memory.isSome_read?_of_written {m : Memory w} {i n : Nat} (h : m.written i n = true) {j : Nat} (hi : i ≤ j)
    (hn : j < i + n) : (m.read? j).isSome = true := by
  induction n generalizing i with
  | zero => omega
  | succ n ih =>
    obtain ⟨hcell, hrest⟩ := Bool.and_eq_true_iff.1 h
    rcases hi.eq_or_lt with rfl | hlt
    · exact hcell
    · exact ih hrest hlt (by omega)

theorem Memory.written_of_isSome_read? {m : Memory w} {i n : Nat}
    (h : ∀ j, i ≤ j → j < i + n → (m.read? j).isSome = true) : m.written i n = true := by
  induction n generalizing i with
  | zero => rfl
  | succ n ih =>
    exact Bool.and_eq_true_iff.2 ⟨h i le_rfl (by omega), ih fun j hi hn => h j (by omega) (by omega)⟩

/-- The cells of a range within a written one are written. -/
theorem Memory.written_mono {m : Memory w} {i n j k : Nat} (h : m.written i n = true) (hj : i ≤ j)
    (hk : j + k ≤ i + n) : m.written j k = true :=
  Memory.written_of_isSome_read? fun _ ha ha' => Memory.isSome_read?_of_written h (by omega) (by omega)

/-- A read of a written cell draws nothing. -/
theorem Memory.draw_of_written {m : Memory w} {i n : Nat} (h : m.written i n = true) {j : Nat} (hi : i ≤ j)
    (hn : j < i + n) (d : Nat) : (m.draw j d).2 = d := by
  obtain ⟨v, hv⟩ := Option.isSome_iff_exists.1 (Memory.isSome_read?_of_written h hi hn)
  rw [Memory.draw_of_read? hv]

/-- A read of a written range leaves the state as it is. -/
theorem State.readCells_of_written (s : State) {m : Memory w} {i n : Nat} (h : m.written i n = true) :
    (s.readCells m i n).2 = s := by
  rw [State.readCells_snd, Memory.drawRange_of_written h, State.setDraws_self]

end Buffers

theorem emitFrame_emitFrame (body : List Byte) (s : State) : emitFrame body (emitFrame body s) = emitFrame body s := by
  simp [emitFrame, State.placeFrame, State.setStatus, Memory.writes_writes_self]

/-! The commands that read a buffer and do not decode a frame, on written cells. -/
section Commands

variable {s : State}

theorem emitReq10_of_written (h : Config.WB_SIZE < s.cnt.toNat ∨ s.wb.written 0 s.cnt.toNat = true) :
    emitReq10 s = if Config.WB_SIZE < s.cnt.toNat then raise .errParam s
      else emitFrame (req10Body s (s.readCells s.wb 0 s.cnt.toNat).1) s := by
  rw [emitReq10]
  split
  · rfl
  · rw [State.readCells_of_written s (h.resolve_left ‹_›)]

theorem sumFrame_of_written (h : Config.FB_SIZE < s.flen.toNat ∨ s.fb.written 0 s.flen.toNat = true) :
    sumFrame s = if Config.FB_SIZE < s.flen.toNat then raise .errParam s
      else done .okCrc (s.setCrcv (crc16 (s.readCells s.fb 0 s.flen.toNat).1)) := by
  rw [sumFrame]
  split
  · rfl
  · rw [State.readCells_of_written s (h.resolve_left ‹_›)]

theorem decodeSample_of_written (h : s.rcnt.toNat < Config.NCHAN ∨ s.rb.written 0 Config.NCHAN = true) :
    decodeSample s = if s.rcnt.toNat < Config.NCHAN then raise .errInsufficient s
      else done .okSample (s.setSample (sampleFrom 0 (s.readCells s.rb 0 Config.NCHAN).1)) := by
  rw [decodeSample]
  split
  · rfl
  · rw [State.readCells_of_written s (h.resolve_left ‹_›)]

theorem emitReq10_emitReq10 (h : Config.WB_SIZE < s.cnt.toNat ∨ s.wb.written 0 s.cnt.toNat = true) :
    emitReq10 (emitReq10 s) = emitReq10 s := by
  rw [emitReq10_of_written h]
  split
  case isTrue hn => exact if_pos hn
  case isFalse hn =>
    have hagain := emitReq10_of_written (s := emitFrame (req10Body s (s.readCells s.wb 0 s.cnt.toNat).1) s) h
    exact hagain.trans ((if_neg hn).trans (emitFrame_emitFrame _ s))

theorem sumFrame_sumFrame (h : Config.FB_SIZE < s.flen.toNat ∨ s.fb.written 0 s.flen.toNat = true) :
    sumFrame (sumFrame s) = sumFrame s := by
  rw [sumFrame_of_written h]
  split
  case isTrue hn => exact if_pos hn
  case isFalse hn =>
    have hagain := sumFrame_of_written (s := done .okCrc (s.setCrcv (crc16 (s.readCells s.fb 0 s.flen.toNat).1))) h
    exact hagain.trans (if_neg hn)

theorem decodeSample_decodeSample (h : s.rcnt.toNat < Config.NCHAN ∨ s.rb.written 0 Config.NCHAN = true) :
    decodeSample (decodeSample s) = decodeSample s := by
  rw [decodeSample_of_written h]
  split
  case isTrue hn => exact if_pos hn
  case isFalse hn =>
    have hagain := decodeSample_of_written
      (s := done .okSample (s.setSample (sampleFrom 0 (s.readCells s.rb 0 Config.NCHAN).1))) h
    refine hagain.trans ((if_neg hn).trans ?_)
    simp [State.setSample, State.setStatus, Memory.writes_writes_self]

end Commands

/-! Receiving a written frame: the checks leave the state as it is, and a parse done again changes nothing. -/

/-- The state that the checks leave. -/
def Received.state : Received → State
  | .rejected _ s => s
  | .accepted _ _ s => s

theorem checkTrailer_state_of_written {s : State} {n : Nat} (hn : 4 ≤ n) (h : s.fb.written 0 n = true) :
    (checkTrailer n s.draws s).state = s := by
  have hbody := Memory.drawRange_of_written (Memory.written_mono h (j := 0) (k := n - 2) le_rfl (by omega))
  have hpayload := Memory.drawRange_of_written (Memory.written_mono h (j := 2) (k := n - 4) (by omega) (by omega))
  have hcell : ∀ j < n, ∀ d, (s.fb.draw j d).2 = d := fun j hj =>
    Memory.draw_of_written h (Nat.zero_le j) (by omega)
  simp only [checkTrailer, hbody, hpayload, hcell (n - 2) (by omega), hcell (n - 1) (by omega),
    hcell 1 (by omega), State.setDraws_self]
  split <;> rfl

theorem receive_state_of_written {s : State}
    (h : Config.FB_SIZE < s.flen.toNat ∨ s.fb.written 0 s.flen.toNat = true) : (receive s).state = s := by
  rw [receive]
  split
  · rfl
  split
  · rfl
  have hw := h.resolve_left ‹_›
  have h4 : 4 ≤ s.flen.toNat := Nat.le_of_not_lt ‹_›
  simp only [Memory.draw_of_written hw (Nat.zero_le 0) (by omega), State.setDraws_self]
  split
  · rfl
  · exact checkTrailer_state_of_written h4 hw

/-- What a parse of a payload does with the state: it draws nothing, and done again it changes nothing. -/
structure PayloadParse (parse : State → State) : Prop where
  draws : ∀ s, (parse s).draws = s.draws
  repeats : ∀ s, parse (parse s) = parse s

theorem payloadParse_malformed : PayloadParse (raise .errMalformed) := ⟨fun _ => rfl, fun _ => rfl⟩

theorem payloadParse_exception (payload : List Byte) : PayloadParse (parseException payload) := by
  match payload with
  | [] => exact payloadParse_malformed
  | [_] => exact ⟨fun _ => rfl, fun _ => rfl⟩
  | _ :: _ :: _ => exact payloadParse_malformed

theorem payloadParse_ack (fc : Byte) (payload : List Byte) : PayloadParse (parseAck fc payload) := by
  match payload with
  | [] | [_] | [_, _] | [_, _, _] | _ :: _ :: _ :: _ :: _ :: _ => exact payloadParse_malformed
  | [_, _, _, _] => exact ⟨fun _ => rfl, fun _ => rfl⟩

theorem payloadParse_registers (payload : List Byte) : PayloadParse (parseRegisters payload) := by
  match payload with
  | [] => exact payloadParse_malformed
  | bc :: data =>
    refine ⟨fun s => ?_, fun s => ?_⟩ <;> by_cases h : bc.toNat = 2 * s.cnt.toNat ∧ data.length = bc.toNat
    · simp [parseRegisters, h]
    · simp [parseRegisters, h]
    · simp [parseRegisters, h, State.setRegisters, State.setStatus, Memory.writes_writes_self]
    · simp [parseRegisters, h]

/-- A choice of parse by the function code alone. -/
theorem PayloadParse.ite (c : Prop) [Decidable c] {f g : State → State} (hf : PayloadParse f) (hg : PayloadParse g) :
    PayloadParse fun s => if c then f s else g s := by
  by_cases hc : c
  · simpa only [if_pos hc] using hf
  · simpa only [if_neg hc] using hg

theorem payloadParse_response (fc : Byte) (payload : List Byte) : PayloadParse (parseResponse fc payload) :=
  .ite _ (payloadParse_exception payload) <| .ite _ (payloadParse_registers payload) <|
    .ite _ (payloadParse_ack fc payload) payloadParse_malformed

/-- `DEC` and every response format are the checks followed by a parse. -/
theorem exec_eq_decodeWith_payloadParse {i : Instr} (hi : i = .dec ∨ i.space = .rsp) :
    ∃ parse, (∀ fc payload, PayloadParse (parse fc payload)) ∧ ∀ s, exec i s = .next (decodeWith parse s) := by
  cases i with
  | dec => exact ⟨parseResponse, payloadParse_response, fun _ => rfl⟩
  | rsp03 =>
    exact ⟨parseAsRsp03, fun _ payload => .ite _ (payloadParse_registers payload) payloadParse_malformed, fun _ => rfl⟩
  | rsp06 =>
    exact ⟨parseAsRsp06, fun fc payload => .ite _ (payloadParse_ack fc payload) payloadParse_malformed, fun _ => rfl⟩
  | rsp10 =>
    exact ⟨parseAsRsp10, fun fc payload => .ite _ (payloadParse_ack fc payload) payloadParse_malformed, fun _ => rfl⟩
  | rspexc =>
    exact ⟨parseAsRspexc, fun _ payload => .ite _ (payloadParse_exception payload) payloadParse_malformed, fun _ => rfl⟩
  | _ => simp [Instr.space] at hi

section Decoding

variable {s : State} (hw : Config.FB_SIZE < s.flen.toNat ∨ s.fb.written 0 s.flen.toNat = true)
  {parse : Byte → List Byte → State → State} (hp : ∀ fc payload, PayloadParse (parse fc payload))
include hw

/-- The checks of one written frame in two states come to the same. -/
theorem receive_of_sameFrame {t : State} (hd : t.draws = s.draws) (hu : t.unit = s.unit) (hf : t.flen = s.flen)
    (hb : t.fb = s.fb) :
    (∃ st, receive s = .rejected st s ∧ receive t = .rejected st t) ∨
    (∃ fc payload, receive s = .accepted fc payload s ∧ receive t = .accepted fc payload t) := by
  have hsame := receive_same hd.symm hu.symm hf.symm (hb ▸ fun _ _ _ => rfl)
  have hs := receive_state_of_written hw
  have ht := receive_state_of_written (s := t) (by rwa [hf, hb])
  generalize receive s = r, receive t = r' at hsame hs ht
  cases hsame with
  | rejected st d => exact .inl ⟨st, congrArg _ hs, congrArg _ ht⟩
  | accepted fc payload d => exact .inr ⟨fc, payload, congrArg _ hs, congrArg _ ht⟩

include hp

theorem decodeWith_draws : (decodeWith parse s).draws = s.draws := by
  rcases receive_of_sameFrame hw rfl rfl rfl rfl with ⟨st, hr, -⟩ | ⟨fc, payload, hr, -⟩ <;> simp only [decodeWith, hr]
  · rfl
  · exact (hp fc payload).draws s

theorem decodeWith_repeated {t : State} (ht : t = decodeWith parse s) (hu : t.unit = s.unit) (hf : t.flen = s.flen)
    (hb : t.fb = s.fb) : decodeWith parse t = t := by
  have hd : t.draws = s.draws := ht ▸ decodeWith_draws hw hp
  rcases receive_of_sameFrame hw hd hu hf hb with ⟨st, hr, hr'⟩ | ⟨fc, payload, hr, hr'⟩
  · have hfirst : t = raise st s := by rw [ht, decodeWith, hr]
    rw [decodeWith, hr', hfirst]
    rfl
  · have hfirst : t = parse fc payload s := by rw [ht, decodeWith, hr]
    rw [decodeWith, hr', hfirst]
    exact (hp fc payload).repeats s

end Decoding

/-- The operand cells of a command that receives a frame are the frame. -/
theorem State.frame_written {i : Instr} (hi : i = .dec ∨ i.space = .rsp) {s : State}
    (h : s.operandsWritten i = true) : Config.FB_SIZE < s.flen.toNat ∨ s.fb.written 0 s.flen.toNat = true := by
  cases i with
  | dec | rsp03 | rsp06 | rsp10 | rspexc => simpa [State.operandsWritten] using h
  | _ => simp [Instr.space] at hi

theorem exec_decode_draws {i : Instr} (hi : i = .dec ∨ i.space = .rsp) {s t : State}
    (hw : s.operandsWritten i = true) (h : exec i s = .next t) : t.draws = s.draws := by
  obtain ⟨parse, hp, hexec⟩ := exec_eq_decodeWith_payloadParse hi
  obtain rfl := Host.Outcome.next.inj ((hexec s).symm.trans h)
  exact decodeWith_draws (State.frame_written hi hw) hp

theorem exec_decode_repeated {i : Instr} (hi : i = .dec ∨ i.space = .rsp) {s t : State}
    (hw : s.operandsWritten i = true) (h : exec i s = .next t) : exec i t = .next t := by
  obtain ⟨parse, hp, hexec⟩ := exec_eq_decodeWith_payloadParse hi
  obtain ⟨hu, hf, hb⟩ := (commandsWriteOnlyTheirResults i s t h).frame_eq hi
  have ht : t = decodeWith parse s := Host.Outcome.next.inj (h.symm.trans (hexec s))
  rw [hexec, decodeWith_repeated (State.frame_written hi hw) hp ht hu hf hb]

/-- Settles O54: the reads of written cells draw nothing, and nothing else of a command does. -/
theorem writtenOperandsDrawNothing : Obligations.WrittenOperandsDrawNothing := by
  intro i s t hw h
  cases i with
  | enc03 | enc06 | req03 | req06 =>
    obtain rfl := Host.Outcome.next.inj h
    rfl
  | enc10 | req10 =>
    obtain rfl := Host.Outcome.next.inj h
    rw [emitReq10_of_written (by simpa [State.operandsWritten] using hw)]
    split <;> rfl
  | ftd =>
    obtain rfl := Host.Outcome.next.inj h
    rw [decodeSample_of_written (by simpa [State.operandsWritten] using hw)]
    split <;> rfl
  | crc =>
    obtain rfl := Host.Outcome.next.inj h
    rw [sumFrame_of_written (by simpa [State.operandsWritten] using hw)]
    split <;> rfl
  | dec => exact exec_decode_draws (.inl rfl) hw h
  | rsp03 | rsp06 | rsp10 | rspexc => exact exec_decode_draws (.inr rfl) hw h

/-- Settles O55: the second run has the operands of the first, draws nothing either, and writes the same. -/
theorem repeatedCommandChangesNothing : Obligations.RepeatedCommandChangesNothing := by
  intro i s t _ hw h
  cases i with
  | enc03 | enc06 | req03 | req06 =>
    obtain rfl := Host.Outcome.next.inj h
    exact congrArg Host.Outcome.next (emitFrame_emitFrame _ s)
  | enc10 | req10 =>
    obtain rfl := Host.Outcome.next.inj h
    exact congrArg Host.Outcome.next (emitReq10_emitReq10 (by simpa [State.operandsWritten] using hw))
  | ftd =>
    obtain rfl := Host.Outcome.next.inj h
    exact congrArg Host.Outcome.next (decodeSample_decodeSample (by simpa [State.operandsWritten] using hw))
  | crc =>
    obtain rfl := Host.Outcome.next.inj h
    exact congrArg Host.Outcome.next (sumFrame_sumFrame (by simpa [State.operandsWritten] using hw))
  | dec => exact exec_decode_repeated (.inl rfl) hw h
  | rsp03 | rsp06 | rsp10 | rspexc => exact exec_decode_repeated (.inr rfl) hw h

end Sys2Proof.Machine
end

section
/-! SUPPORT. The rounding of `flt` inside the normal range: the binade bounds the quotient, so the significand has its
full length and the exponent field is neither zero nor all ones (43_sensor_decode.md R164, R166). -/

namespace Sys2Proof.Machine

section Rounding

variable {n d : Nat}

/-- Scaling by `2 ^ k`, compared with an integer, on the exact quotient. -/
theorem le_scaleBy_iff (hd : 0 < d) (c : Nat) (k : Int) :
    c * (scaleBy n d k).2 ≤ (scaleBy n d k).1 ↔ (c : ℚ) * 2 ^ (-k) ≤ (n : ℚ) / d := by
  have hd' : (0 : ℚ) < d := by exact_mod_cast hd
  have hk : (2 : ℚ) ^ (-k) = 2 ^ (-k).toNat / 2 ^ k.toNat := by
    rw [← zpow_natCast, ← zpow_natCast, ← zpow_sub₀ two_ne_zero]
    congr 1
    omega
  rw [hk, le_div_iff₀ hd', mul_div_assoc', div_mul_eq_mul_div, div_le_iff₀ (by positivity), scaleBy,
    ← Nat.cast_le (α := ℚ)]
  push_cast
  rw [mul_right_comm, mul_assoc]

/-- The binade is the exponent of the greatest power of two at or below the quotient. The difference of the logarithms
is that exponent or one more, and the definition's test decides which. -/
theorem binade_spec (hn : 0 < n) (hd : 0 < d) :
    (2 : ℚ) ^ binade n d ≤ (n : ℚ) / d ∧ (n : ℚ) / d < 2 ^ (binade n d + 1) := by
  have hd' : (0 : ℚ) < d := by exact_mod_cast hd
  have hn1 : (2 : ℚ) ^ (n.log2 : Int) ≤ n := by exact_mod_cast Nat.log2_self_le hn.ne'
  have hn2 : (n : ℚ) < 2 ^ (n.log2 + 1 : Int) := by exact_mod_cast Nat.lt_log2_self
  have hd1 : (2 : ℚ) ^ (d.log2 : Int) ≤ d := by exact_mod_cast Nat.log2_self_le hd.ne'
  have hd2 : (d : ℚ) < 2 ^ (d.log2 + 1 : Int) := by exact_mod_cast Nat.lt_log2_self
  have hlow : (2 : ℚ) ^ ((n.log2 : Int) - d.log2 - 1) ≤ (n : ℚ) / d := by
    rw [sub_sub, zpow_sub₀ two_ne_zero]
    exact div_le_div₀ (by positivity) hn1 hd' hd2.le
  have hhigh : (n : ℚ) / d < 2 ^ ((n.log2 : Int) - d.log2 + 1) := by
    rw [sub_add_eq_add_sub, zpow_sub₀ two_ne_zero]
    exact div_lt_div₀ hn2 hd1 (by positivity) (by positivity)
  have htest := le_scaleBy_iff (n := n) hd 1 (-((n.log2 : Int) - d.log2))
  rw [one_mul, neg_neg, Nat.cast_one, one_mul] at htest
  rw [binade]
  split
  next h => exact ⟨htest.1 h, hhigh⟩
  next h =>
    refine ⟨hlow, ?_⟩
    rw [sub_add_cancel]
    exact not_le.1 fun h' => h (htest.2 h')

theorem roundHalfEven_bounds (n d : Nat) : n / d ≤ roundHalfEven n d ∧ roundHalfEven n d ≤ n / d + 1 := by
  rw [roundHalfEven]
  split <;> omega

theorem binade_bounds (n d : Nat) : -(d.log2 : Int) - 1 ≤ binade n d ∧ binade n d ≤ n.log2 := by
  simp only [binade]
  split <;> omega

/-- Scaled by its binade, a quotient rounds to a significand of full length, or carries to the next power of two. -/
theorem significand_bounds (hn : 0 < n) (hd : 0 < d) (p : Nat) :
    2 ^ p ≤ roundHalfEven (scaleBy n d (p - binade n d)).1 (scaleBy n d (p - binade n d)).2 ∧
    roundHalfEven (scaleBy n d (p - binade n d)).1 (scaleBy n d (p - binade n d)).2 ≤ 2 ^ (p + 1) := by
  obtain ⟨hlow, hhigh⟩ := binade_spec hn hd
  have hlow' := (le_scaleBy_iff (n := n) hd (2 ^ p) (p - binade n d)).2 <| by
    rw [Nat.cast_pow, Nat.cast_ofNat, ← zpow_natCast, ← zpow_add₀ two_ne_zero]
    simpa using hlow
  have hhigh' := (le_scaleBy_iff (n := n) hd (2 ^ (p + 1)) (p - binade n d)).not.2 <| by
    rw [Nat.cast_pow, Nat.cast_ofNat, ← zpow_natCast, ← zpow_add₀ two_ne_zero, not_le,
      show ((p + 1 : ℕ) : Int) + -(p - binade n d) = binade n d + 1 by push_cast; ring]
    exact hhigh
  have hpos : 0 < (scaleBy n d (p - binade n d)).2 := Nat.mul_pos hd (Nat.two_pow_pos _)
  obtain ⟨h1, h2⟩ := roundHalfEven_bounds (scaleBy n d (p - binade n d)).1 (scaleBy n d (p - binade n d)).2
  exact ⟨((Nat.le_div_iff_mul_le hpos).2 hlow').trans h1,
    h2.trans (Nat.succ_le_of_lt ((Nat.div_lt_iff_lt_mul hpos).2 (not_le.1 hhigh')))⟩

/-- The pattern of a quotient in the normal range. -/
theorem magnitudeBits_of_normal (hlo : -1022 ≤ binade n d) :
    magnitudeBits Config.binary64 n d = min ((binade n d + 1022).toNat * 2 ^ 52 +
      roundHalfEven (scaleBy n d (52 - binade n d)).1 (scaleBy n d (52 - binade n d)).2) (2047 * 2 ^ 52) := by
  have hmax : max (binade n d) (1 - bias Config.binary64 : Int) = binade n d := max_eq_left hlo
  rw [magnitudeBits, hmax]
  congr 3
  exact congrArg Int.toNat (by simp [bias]; omega)

theorem floatExponent_flt {num : Int} (h : num ≠ 0) (den : Nat) :
    floatExponent (flt num den) = magnitudeBits Config.binary64 num.natAbs den / 2 ^ 52 := by
  have hle : magnitudeBits Config.binary64 num.natAbs den ≤ 2047 * 2 ^ 52 := min_le_right _ _
  rw [floatExponent, flt, fltBits, if_neg h, BitVec.extractLsb'_toNat, BitVec.toNat_ofNat]
  generalize magnitudeBits Config.binary64 num.natAbs den = m at hle
  rw [Nat.shiftRight_eq_div_pow]
  split
  · dsimp only
    omega
  · rw [zero_add]
    omega

end Rounding

/-- A quotient well inside the normal range is rounded to a normal value. -/
theorem floatNormal_flt {num : Int} {den : Nat} (hnum : num ≠ 0) (hden : 0 < den)
    (hlo : -1022 ≤ binade num.natAbs den) (hhi : binade num.natAbs den < 1023) :
    floatNormal (flt num den) = true := by
  obtain ⟨h1, h2⟩ := significand_bounds (Int.natAbs_pos.2 hnum) hden 52
  have hexp : (binade num.natAbs den + 1022).toNat ≤ 2044 := by omega
  simp only [floatNormal, floatExponent_flt hnum, magnitudeBits_of_normal hlo, Bool.and_eq_true, decide_eq_true_eq]
  rw [Nat.cast_ofNat] at h1 h2
  generalize roundHalfEven _ _ = q at h1 h2 ⊢
  generalize (binade num.natAbs den + 1022).toNat = e at hexp ⊢
  omega

theorem natAbs_s16_le (v : Word) : (s16 v).natAbs ≤ 32768 := by
  rw [s16]
  split <;> omega

/-- What a channel holds is positive zero or normal (43_sensor_decode.md R166). -/
theorem channelValue_sound (i : Nat) (v : Word) : channelValue i v = 0 ∨ floatNormal (channelValue i v) = true := by
  by_cases h : s16 v = 0
  · left
    rw [channelValue, h]
    rfl
  · right
    have hden : 0 < channelDivisor i ∧ channelDivisor i < 2 ^ 10 := by
      rw [channelDivisor]
      split <;> decide
    have hnum : (s16 v).natAbs < 2 ^ 16 := (natAbs_s16_le v).trans_lt (by norm_num)
    have hlog := (Nat.log2_lt (Int.natAbs_ne_zero.2 h)).2 hnum
    have hlog' := (Nat.log2_lt hden.1.ne').2 hden.2
    obtain ⟨hlo, hhi⟩ := binade_bounds (s16 v).natAbs (channelDivisor i)
    exact floatNormal_flt h hden.1 (by omega) (by omega)

end Sys2Proof.Machine
end

section
/-! SUPPORT. The invariant, kept by every event: what it says of the data is kept by every write and every command, and
the status is an outcome of the command that wrote it (20_memory.md R50; 10_state.md R25, R30, R35). -/

namespace Sys2Proof.Machine

section Cells

variable {w : Nat}

theorem Memory.writes_cons_of_lt (m : Memory w) {k i : Nat} (x : BitVec w) (h : k < i) (vs : List (BitVec w)) :
    Memory.writes ((k, x) :: m) i vs = (k, x) :: m.writes i vs := by
  induction vs generalizing m i with
  | nil => rfl
  | cons v vs ih =>
    rw [Memory.writes_cons, Memory.write, if_neg (by omega), if_neg (by omega)]
    exact ih _ (by omega)

/-- A range written over no cells or over exactly its own cells leaves those cells and no other. -/
theorem Memory.writes_eq_zip (m : Memory w) (i : Nat) (vs : List (BitVec w))
    (h : m.map Prod.fst = [] ∨ m.map Prod.fst = List.range' i vs.length) :
    m.writes i vs = (List.range' i vs.length).zip vs := by
  induction vs generalizing m i with
  | nil => simpa using h
  | cons v vs ih =>
    rw [Memory.writes_cons, List.length_cons, List.range'_succ, List.zip_cons_cons]
    cases m with
    | nil =>
      rw [← ih [] (i + 1) (.inl rfl), ← Memory.writes_cons_of_lt [] v (Nat.lt_succ_self i)]
      rfl
    | cons c m =>
      obtain ⟨k, x⟩ := c
      obtain ⟨rfl, hm⟩ : k = i ∧ m.map Prod.fst = List.range' (i + 1) vs.length := by
        simpa [List.range'_succ] using h
      rw [← ih m (k + 1) (.inr hm), ← Memory.writes_cons_of_lt m v (Nat.lt_succ_self k), Memory.write,
        if_neg (Nat.lt_irrefl k), if_pos rfl]

end Cells

theorem State.sampleSound_iff {s : State} : s.sampleSound = true ↔
    (s.ft.map Prod.fst = [] ∨ s.ft.map Prod.fst = List.range' 0 6) ∧
    ∀ cell ∈ s.ft, cell.2 = 0 ∨ floatNormal cell.2 = true := by
  simp only [State.sampleSound, Bool.and_eq_true, Bool.or_eq_true, beq_iff_eq, List.all_eq_true, Config.NCHAN,
    List.range_eq_range']

theorem State.buffersWf_iff {s : State} : s.buffersWf = true ↔ s.fb.wf Config.FB_SIZE = true ∧
    s.wb.wf Config.WB_SIZE = true ∧ s.rb.wf Config.RB_SIZE = true ∧ s.ft.wf Config.NCHAN = true := by
  simp only [State.buffersWf, Bool.and_eq_true, and_assoc]

theorem State.setSample_sound {s : State} {channels : List FloatBits} (h : s.sampleSound = true)
    (hl : channels.length = 6) (hc : ∀ c ∈ channels, c = 0 ∨ floatNormal c = true) :
    (s.setSample channels).sampleSound = true := by
  obtain ⟨hcells, -⟩ := State.sampleSound_iff.1 h
  rw [State.sampleSound_iff, State.setSample_ft, Memory.writes_eq_zip _ _ _ (by rwa [hl])]
  exact ⟨.inr (by rw [List.map_fst_zip (by simp), hl]), fun cell hmem => hc _ (List.of_mem_zip hmem).2⟩

theorem sampleFrom_sound {i : Nat} {vs : List Word} {c : FloatBits} (h : c ∈ sampleFrom i vs) :
    c = 0 ∨ floatNormal c = true := by
  obtain ⟨k, hk⟩ := List.mem_iff_getElem?.1 h
  rw [getElem?_sampleFrom] at hk
  obtain ⟨v, -, rfl⟩ := Option.map_eq_some_iff.1 hk
  exact channelValue_sound _ v

/-- The part of the invariant that speaks of data and not of `STATUS`. -/
def State.DataSound (s : State) : Prop := s.buffersWf = true ∧ s.ackfcListed = true ∧ s.sampleSound = true

theorem Status.contains_code {l : List Status} {st : Status} (h : st ∈ l) :
    (l.map Status.code).contains st.code = true := List.contains_iff_mem.2 (List.mem_map_of_mem h)

theorem Status.mem_all (st : Status) : st ∈ Status.all := by cases st <;> decide

/-- An outcome of the code in `CMD` is a listed status, so sound data and such a status make up the invariant. -/
theorem State.inv_of_outcome {t : State} {st : Status} (hd : t.DataSound) (ht : t.status = st.code)
    (hst : st ∈ statusesAfterCode t.cmd) : t.Inv := by
  obtain ⟨hbuf, hack, hft⟩ := hd
  refine ⟨hbuf, ?_, ?_, hack, hft⟩
  · rw [State.statusListed, ht]
    exact Status.contains_code st.mem_all
  · rw [State.statusFitsCmd, ht, Status.contains_code hst, Bool.or_true]

theorem State.Inv.dataSound {s : State} (h : s.Inv) : s.DataSound := by
  obtain ⟨hbuf, -, -, hack, hft⟩ := h
  exact ⟨hbuf, hack, hft⟩

theorem State.DataSound.writeReg {s : State} (h : s.DataSound) (r : HostReg) (v : Nat) :
    (s.writeReg r v).DataSound := by
  obtain ⟨hbuf, hack, hft⟩ := h
  obtain ⟨hfb, hwb, hrb, hftwf⟩ := State.buffersWf_iff.1 hbuf
  cases r with
  | fb i => exact ⟨State.buffersWf_iff.2 ⟨Memory.wf_write _ _ hfb i.isLt, hwb, hrb, hftwf⟩, hack, hft⟩
  | wb i => exact ⟨State.buffersWf_iff.2 ⟨hfb, Memory.wf_write _ _ hwb i.isLt, hrb, hftwf⟩, hack, hft⟩
  | rb i => exact ⟨State.buffersWf_iff.2 ⟨hfb, hwb, Memory.wf_write _ _ hrb i.isLt, hftwf⟩, hack, hft⟩
  | _ => exact ⟨hbuf, hack, hft⟩

theorem EncodeEnd.dataSound {s t : State} (hs : s.DataSound) (h : EncodeEnd s t) : t.DataSound := by
  cases h with
  | error => exact hs
  | frame fc payload d hl =>
    obtain ⟨hbuf, hack, hft⟩ := hs
    obtain ⟨hfb, hwb, hrb, hftwf⟩ := State.buffersWf_iff.1 hbuf
    refine ⟨State.buffersWf_iff.2 ⟨Memory.wf_writes _ _ hfb ?_, hwb, hrb, hftwf⟩, hack, hft⟩
    simp only [length_withTrailer, List.length_cons, Config.FB_SIZE]
    omega

theorem DecodeEnd.dataSound {s t : State} (hs : s.DataSound) (h : DecodeEnd s t) : t.DataSound := by
  obtain ⟨hbuf, hack, hft⟩ := hs
  cases h with
  | error | exception => exact ⟨hbuf, hack, hft⟩
  | registers values d hv hc =>
    obtain ⟨hfb, hwb, hrb, hftwf⟩ := State.buffersWf_iff.1 hbuf
    exact ⟨State.buffersWf_iff.2 ⟨hfb, hwb, Memory.wf_writes _ _ hrb (by simpa [hv] using hc), hftwf⟩, hack, hft⟩
  | ack fc reg dat d hf =>
    refine ⟨hbuf, ?_, hft⟩
    rcases hf with rfl | rfl <;> rfl

theorem decodeSample_dataSound {s : State} (hs : s.DataSound) : (decodeSample s).DataSound := by
  rcases decodeSample_cases s with ⟨-, e⟩ | ⟨-, values, d, hv, e⟩ <;> rw [e]
  · exact hs
  · have hl : values.length = 6 := by simpa using congrArg (fun p => p.1.length) hv
    have hl' : (sampleFrom 0 values).length = 6 := by rw [length_sampleFrom, hl]
    obtain ⟨hbuf, hack, hft⟩ := hs
    obtain ⟨hfb, hwb, hrb, hftwf⟩ := State.buffersWf_iff.1 hbuf
    exact ⟨State.buffersWf_iff.2 ⟨hfb, hwb, hrb, Memory.wf_writes _ _ hftwf (by simp [hl'])⟩, hack,
      State.setSample_sound (s := s) hft hl' fun _ => sampleFrom_sound⟩

theorem sumFrame_dataSound {s : State} (hs : s.DataSound) : (sumFrame s).DataSound := by
  rcases sumFrame_cases s with ⟨-, e⟩ | ⟨-, bytes, d, -, e⟩ <;> rw [e] <;> exact hs

theorem exec_dataSound {i : Instr} {s t : State} (hs : s.DataSound) (h : exec i s = .next t) : t.DataSound := by
  rcases exec_end h with hend | hend | rfl | rfl
  · exact hend.dataSound hs
  · exact hend.dataSound hs
  · exact decodeSample_dataSound hs
  · exact sumFrame_dataSound hs

theorem decodeCmd_space {c : Byte} {i : Instr} (h : decodeCmd c = some i) : i.space = .cmd := by
  unfold decodeCmd at h
  split_ifs at h <;> obtain rfl := Option.some.inj h <;> rfl

theorem DecodeEnd.status_mem {s t : State} (h : DecodeEnd s t) : ∃ st ∈ Instr.outcomes .dec, t.status = st.code := by
  cases h with
  | error st d h =>
    refine ⟨st, ?_, rfl⟩
    rcases h with ⟨rfl, -⟩ | ⟨rfl, -⟩ | ⟨rfl | rfl | rfl, -⟩ <;> decide
  | exception => exact ⟨.okException, by decide, rfl⟩
  | registers => exact ⟨.okRegisters, by decide, rfl⟩
  | ack => exact ⟨.okWriteack, by decide, rfl⟩

theorem exec_status_mem {i : Instr} (hi : i.space = .cmd) {s t : State} (h : exec i s = .next t) :
    ∃ st ∈ Instr.outcomes i, t.status = st.code := by
  cases i with
  | enc03 | enc06 =>
    obtain rfl := Host.Outcome.next.inj h
    exact ⟨.okFrame, by decide, rfl⟩
  | enc10 =>
    obtain rfl := Host.Outcome.next.inj h
    rcases emitReq10_cases s with ⟨-, e⟩ | ⟨-, values, d, -, e⟩ <;> rw [e]
    · exact ⟨.errParam, by decide, rfl⟩
    · exact ⟨.okFrame, by decide, rfl⟩
  | dec =>
    obtain ⟨u, hu, hend⟩ := execDec_end s
    obtain rfl := Host.Outcome.next.inj (h.symm.trans hu)
    exact hend.status_mem
  | ftd =>
    obtain rfl := Host.Outcome.next.inj h
    rcases decodeSample_cases s with ⟨-, e⟩ | ⟨-, values, d, -, e⟩ <;> rw [e]
    · exact ⟨.errInsufficient, by decide, rfl⟩
    · exact ⟨.okSample, by decide, rfl⟩
  | crc =>
    obtain rfl := Host.Outcome.next.inj h
    rcases sumFrame_cases s with ⟨-, e⟩ | ⟨-, bytes, d, -, e⟩ <;> rw [e]
    · exact ⟨.errParam, by decide, rfl⟩
    · exact ⟨.okCrc, by decide, rfl⟩
  | req03 | req06 | req10 | rsp03 | rsp06 | rsp10 | rspexc => cases hi

theorem runCommand_inv {s t : State} (hs : s.DataSound) (h : runCommand s = .next t) : t.Inv := by
  cases hc : decodeCmd s.cmd with
  | none =>
    rw [runCommand_of_undefined hc] at h
    obtain rfl := Host.Outcome.next.inj h
    exact State.inv_of_outcome (st := .errCmd) hs rfl (by simp [statusesAfterCode, hc])
  | some i =>
    rw [runCommand_of_defined hc] at h
    obtain ⟨st, hst, ht⟩ := exec_status_mem (decodeCmd_space hc) h
    have hcmd : t.cmd = s.cmd := (commandsWriteOnlyTheirResults i s t h).cmd_eq
    exact State.inv_of_outcome (exec_dataSound hs h) ht (by simpa [statusesAfterCode, hcmd, hc] using hst)

theorem hostWrite_cmd_answer {s t : State} {v : Nat} (h : hostWrite HostReg.cmd.number v s = .next t) :
    ∃ c : Byte, runCommand { s with cmd := c } = .next t := by
  by_cases hv : v < 2 ^ HostReg.cmd.width
  · refine ⟨BitVec.ofNat 8 v, ?_⟩
    rw [← hostWrite_cmd, BitVec.toNat_ofNat, Nat.mod_eq_of_lt (show v < 2 ^ 8 from hv)]
    exact h
  · rw [hostWrite_of_tooWide s .cmd (Nat.le_of_not_lt hv)] at h
    cases h

theorem State.Inv.writeReg {s : State} (h : s.Inv) {r : HostReg} (hr : r ≠ .cmd) (v : Nat) : (s.writeReg r v).Inv := by
  obtain ⟨hbuf, hack, hft⟩ := h.dataSound.writeReg r v
  obtain ⟨-, hlist, hfit, -, -⟩ := h
  refine ⟨hbuf, ?_, ?_, hack, hft⟩
  · rwa [State.statusListed, State.writeReg_status]
  · rwa [State.statusFitsCmd, State.writeReg_status, State.writeReg_cmd s hr]

theorem hostWrite_inv {s t : State} {n v : Nat} (hs : s.Inv) (h : hostWrite n v s = .next t) : t.Inv := by
  by_cases hn : n = HostReg.cmd.number
  · subst hn
    obtain ⟨c, hc⟩ := hostWrite_cmd_answer h
    exact runCommand_inv (s := { s with cmd := c }) hs.dataSound hc
  · obtain ⟨r, hr, rfl⟩ := hostWrite_answer h hn
    exact hs.writeReg hr v

theorem perform_inv {e : Event} {s t : State} (hs : s.Inv) (h : perform e s = .next t) : t.Inv := by
  cases e with
  | write n v => exact hostWrite_inv hs h
  | read n =>
    obtain ⟨d, v, rfl⟩ := hostRead_answer h
    exact hs
  | reset =>
    obtain rfl := Host.Outcome.next.inj h
    exact resetMeetsTheInvariant

/-- Settles O59: a waiting step changes nothing, and every event keeps the invariant. -/
theorem everyStepKeepsTheInvariant : Obligations.EveryStepKeepsTheInvariant := by
  intro s t hs h
  cases hp : s.pending with
  | nil =>
    rw [blockWaitsForTheHost s hp] at h
    obtain rfl := Host.Outcome.next.inj h
    exact hs
  | cons e rest =>
    rw [step_of_pending hp] at h
    exact perform_inv (s := s.takeEvent rest) hs h

end Sys2Proof.Machine
end

section
/-! SUPPORT. Accesses in order and the frame lengths that the buffers admit (20_memory.md R60, R65). -/

namespace Sys2Proof.Machine

/-- Settles O17: the write leaves the value in its register, and the read returns what is held there. -/
theorem readAfterWriteReturnsTheValue : Obligations.ReadAfterWriteReturnsTheValue := by
  intro s r v rest hp hw hr hv
  obtain ⟨t, ht, hval, -, hpend, hrep, -⟩ := hostWriteSetsItsRegisterOnly s r v _ hp hw hr hv
  exact ⟨t, _, ht, hostReadReturnsTheValueHeld t r v rest hpend hval, congrArg _ hrep, rfl⟩

@[simp] theorem Status.code_inj {st st' : Status} : st.code = st'.code ↔ st = st' := Status.code_injective.eq_iff

theorem emitFrame_flen (body : List Byte) (s : State) :
    (emitFrame body s).flen = BitVec.ofNat 16 (body.length + 2) := by
  simp [emitFrame]

theorem emitReq10_flen {s : State} (h : s.cnt.toNat ≤ 123) : (emitReq10 s).flen.toNat = 9 + 2 * s.cnt.toNat := by
  rcases emitReq10_cases s with ⟨hn, -⟩ | ⟨-, values, d, hv, e⟩
  · omega
  · have hl : values.length = s.cnt.toNat := by simpa using congrArg (fun p => p.1.length) hv
    simp only [e, State.setStatus_flen, State.placeFrame_flen, length_withTrailer, length_req10Body, hl,
      BitVec.toNat_ofNat]
    omega

theorem emitReq10_status {s : State} (h : 123 < s.cnt.toNat) : (emitReq10 s).status = Status.errParam.code := by
  rcases emitReq10_cases s with ⟨-, e⟩ | ⟨hn, -⟩
  · rw [e]
    rfl
  · omega

/-- Each kind of success fixes the length of the frame: 5, 8 or, for a read response, an odd number, so never 256. -/
theorem DecodeEnd.frameLengths {s t : State} (h : DecodeEnd s t) :
    (t.status = Status.okRegisters.code →
      s.flen.toNat = 5 + 2 * t.rcnt.toNat ∧ t.rcnt.toNat ≤ 125 ∧ t.rcnt.toNat = s.cnt.toNat) ∧
    (t.status = Status.okException.code → s.flen.toNat = 5) ∧
    (t.status = Status.okWriteack.code → s.flen.toNat = 8) ∧
    (s.flen.toNat = 256 → t.status = Status.errAddr.code ∨ t.status = Status.errCrc.code ∨
      t.status = Status.errMalformed.code) := by
  cases h with
  | error st d h =>
    rcases h with ⟨rfl, hlong, -⟩ | ⟨rfl, hshort, -⟩ | ⟨rfl | rfl | rfl, -⟩
    · simpa using hlong.ne'
    · have hne : s.flen.toNat ≠ 256 := by omega
      simpa using hne
    all_goals simp
  | exception code d h => simp [h]
  | registers values d hv hc h =>
    have hcnt : (s.cnt.setWidth 8).toNat = s.cnt.toNat := by
      rw [BitVec.toNat_setWidth]
      omega
    have hodd : 5 + 2 * s.cnt.toNat ≠ 256 := by omega
    simp [hcnt, hc, h, hodd]
  | ack fc reg dat d hf h => simp [h]

/-- Settles O42, by the ends of the encode commands and of `DEC`. -/
theorem frameLengthsOfEachFormat : Obligations.FrameLengthsOfEachFormat := by
  refine fun s t => ⟨fun h => ?_, fun h => ?_, fun h => ?_⟩
  · rcases h with h | h <;> obtain rfl := Host.Outcome.next.inj h <;> exact congrArg BitVec.toNat (emitFrame_flen _ s)
  · obtain rfl := Host.Outcome.next.inj h
    exact ⟨emitReq10_flen, emitReq10_status⟩
  · obtain ⟨u, hu, hend⟩ := execDec_end s
    obtain rfl := Host.Outcome.next.inj (h.symm.trans hu)
    exact hend.frameLengths

end Sys2Proof.Machine
end

section
/-! SUPPORT. The three spaces of the opcode table: which bytes decode in each, and that decoding and encoding are
inverse there (30_encoding.md R70, R73 to R79, R81). -/

namespace Sys2Proof

/-- The undefined command codes are those that the table does not list. -/
theorem decodeCmd_eq_none_iff {c : Byte} : decodeCmd c = none ↔
    c ≠ 0x03 ∧ c ≠ 0x06 ∧ c ≠ 0x10 ∧ c ≠ 0x40 ∧ c ≠ 0x41 ∧ c ≠ 0x42 := by
  unfold decodeCmd
  split_ifs <;> simp_all

/-- Bit 7 alone selects `RSPEXC`. -/
theorem decodeRsp_of_bit7 {fc : Byte} (h : fc.getLsbD 7 = true) :
    decodeRsp fc = some (.rspexc (fc.extractLsb' 0 7)) := if_pos h

/-- The response formats with bit 7 clear have one byte each. -/
theorem decodeRsp_eq_some_iff {fc : Byte} {i : Instr} : decodeRsp fc = some i ↔
    (fc.getLsbD 7 = true ∧ i = .rspexc (fc.extractLsb' 0 7)) ∨
    (fc = 0x03 ∧ i = .rsp03) ∨ (fc = 0x06 ∧ i = .rsp06) ∨ (fc = 0x10 ∧ i = .rsp10) := by
  constructor
  · intro h
    unfold decodeRsp at h
    split_ifs at h with h7 h3 h6 h10 <;> obtain rfl := Option.some.inj h
    · exact .inl ⟨h7, rfl⟩
    · exact .inr (.inl ⟨h3, rfl⟩)
    · exact .inr (.inr (.inl ⟨h6, rfl⟩))
    · exact .inr (.inr (.inr ⟨h10, rfl⟩))
  · rintro (⟨h7, rfl⟩ | ⟨rfl, rfl⟩ | ⟨rfl, rfl⟩ | ⟨rfl, rfl⟩)
    · exact decodeRsp_of_bit7 h7
    all_goals rfl

theorem decodeRsp_eq_none_iff {fc : Byte} : decodeRsp fc = none ↔
    fc.getLsbD 7 = false ∧ fc ≠ 0x03 ∧ fc ≠ 0x06 ∧ fc ≠ 0x10 := by
  unfold decodeRsp
  split_ifs <;> simp_all

/-- The function-code byte of `RSPEXC` is bit 7 above the seven bits that the block does not examine. -/
theorem encode_rspexc_extractLsb' {fc : Byte} (h : fc.getLsbD 7 = true) :
    encode (.rspexc (fc.extractLsb' 0 7)) = fc := by
  apply BitVec.eq_of_getLsbD_eq
  intro k hk
  simp only [encode, BitVec.getLsbD_append, BitVec.getLsbD_extractLsb']
  by_cases hk7 : k < 7
  · simp [hk7]
  · obtain rfl : k = 7 := by omega
    simp [h]

/-- Settles O3: the undefined codes are characterised, and counted over all bytes. -/
theorem commandCodesAreSix : Obligations.CommandCodesAreSix :=
  ⟨rfl, rfl, rfl, rfl, rfl, rfl, fun _ => decodeCmd_eq_none_iff, by decide +kernel⟩

/-- Settles O4: bit 7 selects `RSPEXC`, three bytes the other formats, and the rest none. -/
theorem responseFormatsByFunctionCode : Obligations.ResponseFormatsByFunctionCode :=
  ⟨fun _ h7 => ⟨_, decodeRsp_of_bit7 h7⟩, rfl, rfl, rfl,
    fun _ h7 h3 h6 h10 => decodeRsp_eq_none_iff.2 ⟨h7, h3, h6, h10⟩, by decide +kernel⟩

/-- Settles O5, word by word. -/
theorem writtenOutWordsDecode : Obligations.WrittenOutWordsDecode :=
  ⟨rfl, rfl, rfl, rfl, rfl, rfl, rfl, rfl⟩

/-- Settles O6, row by row. -/
theorem decodeOfEncodeIsTheRow : Obligations.DecodeOfEncodeIsTheRow := by
  intro i _
  cases i with
  | rspexc low => exact (Laws.Encoding.rspexc low).2
  | _ => rfl

theorem encode_of_decodeCmd {c : Byte} {i : Instr} (h : decodeCmd c = some i) : encode i = c := by
  unfold decodeCmd at h
  split_ifs at h with hc hc hc hc hc hc <;> obtain rfl := Option.some.inj h <;> exact hc.symm

theorem encode_of_decodeReq {fc : Byte} {i : Instr} (h : decodeReq fc = some i) : i.space = .req ∧ encode i = fc := by
  unfold decodeReq at h
  split_ifs at h with hfc hfc hfc <;> obtain rfl := Option.some.inj h <;> exact ⟨rfl, hfc.symm⟩

theorem encode_of_decodeRsp {fc : Byte} {i : Instr} (h : decodeRsp fc = some i) : i.space = .rsp ∧ encode i = fc := by
  rcases decodeRsp_eq_some_iff.1 h with ⟨h7, rfl⟩ | ⟨rfl, rfl⟩ | ⟨rfl, rfl⟩ | ⟨rfl, rfl⟩
  · exact ⟨rfl, encode_rspexc_extractLsb' h7⟩
  all_goals exact ⟨rfl, rfl⟩

/-- Settles O7, space by space. -/
theorem encodeOfDecodeIsTheByte : Obligations.EncodeOfDecodeIsTheByte := by
  intro sp c i h
  cases sp with
  | cmd => exact ⟨Machine.decodeCmd_space h, encode_of_decodeCmd h⟩
  | req => exact encode_of_decodeReq h
  | rsp => exact encode_of_decodeRsp h

end Sys2Proof
end

section
/-! SUPPORT. Frames of eight bytes that the encode commands build, and the parse that the function code in the frame
selects (30_encoding.md R73, R74, R81; 42_decode.md R136). -/

namespace Sys2Proof.Machine

/-- A body of six bytes gets its trailer and becomes a frame of eight. -/
theorem emitFrame_of_length_six {body : List Byte} (h : body.length = 6) (s : State) :
    emitFrame body s = { s with fb := s.fb.writes 0 (body ++ [lo8 (crc16 body), hi8 (crc16 body)]), flen := 8,
                                status := Status.okFrame.code } := by
  rw [emitFrame, State.placeFrame, length_withTrailer, h]
  rfl

/-- Settles O25: the command and the format emit the body of R73. -/
theorem encodeReadRequest : Obligations.EncodeReadRequest := by
  rintro s i (rfl | rfl) F rfl <;> exact congrArg Host.Outcome.next (emitFrame_of_length_six rfl s)

/-- Settles O26: the command and the format emit the body of R74. -/
theorem encodeWriteSingleRequest : Obligations.EncodeWriteSingleRequest := by
  rintro s i (rfl | rfl) F rfl <;> exact congrArg Host.Outcome.next (emitFrame_of_length_six rfl s)

section FunctionCode

variable {s : State} {fc : Byte} (h : s.fb.read? 1 = some fc)
include h

/-- The trailer check hands on the function code that the frame holds. -/
theorem checkTrailer_functionCode {n d : Nat} {fc' : Byte} {payload : List Byte} {t : State}
    (hc : checkTrailer n d s = .accepted fc' payload t) : fc' = fc := by
  simp only [checkTrailer, Memory.draw_of_read? h] at hc
  split at hc <;> cases hc
  rfl

/-- The checks before the payload hand on the function code that the frame holds. -/
theorem receive_functionCode {fc' : Byte} {payload : List Byte} {t : State}
    (hr : receive s = .accepted fc' payload t) : fc' = fc := by
  simp only [receive] at hr
  split_ifs at hr
  exact checkTrailer_functionCode h hr

/-- Two parses that agree at the frame's function code decode the frame alike. -/
theorem decodeWith_congr_of_functionCode {parse parse' : Byte → List Byte → State → State}
    (hp : parse fc = parse' fc) : decodeWith parse s = decodeWith parse' s := by
  simp only [decodeWith]
  cases hr : receive s with
  | rejected st t => rfl
  | accepted fc' payload t =>
    obtain rfl := receive_functionCode h hr
    exact congrFun (congrFun hp payload) t

end FunctionCode

/-- Settles O41: at the function code of the frame, the parse of `DEC` is the parse of the format that it selects. -/
theorem decodeFollowsTheFunctionCode : Obligations.DecodeFollowsTheFunctionCode := by
  intro s fc i h hi
  rcases decodeRsp_eq_some_iff.1 hi with ⟨h7, rfl⟩ | ⟨rfl, rfl⟩ | ⟨rfl, rfl⟩ | ⟨rfl, rfl⟩ <;>
    refine congrArg Host.Outcome.next (decodeWith_congr_of_functionCode h ?_)
  · funext payload t
    simp [parseResponse, parseAsRspexc, h7]
  all_goals rfl

end Sys2Proof.Machine
end

section
/-! SUPPORT. The residue of a frame with its own trailer, the detection of one changed byte, and the command `CRC`
(40_crc.md). A register whose low bits are zero is only shifted by the bit steps, so the trailer takes the register to
zero (R106); as the sum is injective in every byte (Laws/Crc), a changed byte takes it elsewhere (R107). -/

namespace Sys2Proof.Machine

/-- With its low bits zero a working value is only shifted: the polynomial never enters. -/
theorem crcBits_of_low_zero (n : Nat) (c : Word) (h : ∀ i < n, c.getLsbD i = false) : crcBits n c = c >>> n := by
  induction n generalizing c with
  | zero => exact (BitVec.ushiftRight_zero c).symm
  | succ n ih =>
    have hstep : crcBit c = c >>> 1 := if_neg (by rw [h 0 (Nat.zero_lt_succ n)]; exact Bool.false_ne_true)
    have hlow : ∀ i < n, (c >>> 1).getLsbD i = false := fun i hi => by
      rw [BitVec.getLsbD_ushiftRight]
      exact h (1 + i) (by omega)
    rw [crcBits, hstep, ih _ hlow, ← BitVec.shiftRight_add, Nat.add_comm]

theorem hi8_xor_setWidth (c : Word) (b : Byte) : hi8 (c ^^^ b.setWidth 16) = hi8 c := by
  ext i hi
  simp [hi8, BitVec.getElem_extractLsb']

theorem lo8_xor_setWidth (c : Word) (b : Byte) : lo8 (c ^^^ b.setWidth 16) = lo8 c ^^^ b := by
  refine BitVec.eq_of_getLsbD_eq fun i hi => ?_
  simp [lo8, hi, show i < 16 by omega]

theorem ushiftRight_eight (c : Word) : c >>> 8 = (hi8 c).setWidth 16 := by
  apply BitVec.eq_of_toNat_eq
  rw [BitVec.toNat_ushiftRight, BitVec.toNat_setWidth, toNat_hi8, Nat.shiftRight_eq_div_pow]
  omega

/-- The byte step of the low byte cancels it and shifts the high byte down. -/
theorem crcByte_lo8 (c : Word) : crcByte c (lo8 c) = (hi8 c).setWidth 16 := by
  have hlow : ∀ i < 8, (c ^^^ (lo8 c).setWidth 16).getLsbD i = false := fun i hi => by
    simp [lo8, hi, show i < 16 by omega]
  rw [crcByte, crcBits_of_low_zero 8 _ hlow, ushiftRight_eight, hi8_xor_setWidth]

/-- The trailer of a working value takes it to zero. -/
theorem crcFrom_trailerBytes (c : Word) : crcFrom c (trailerBytes c) = 0 := by
  simp only [trailerBytes, crcFrom, crcByte_lo8]
  rw [crcByte, BitVec.xor_self]
  rfl

theorem crc16_withTrailer (body : List Byte) : crc16 (withTrailer body) = 0 := by
  rw [crc16, withTrailer, crcFrom_append]
  exact crcFrom_trailerBytes (crc16 body)

/-- Settles O21: the trailer takes the sum of the bytes before it to zero. -/
theorem crcResidueIsZero : Obligations.CrcResidueIsZero := crc16_withTrailer

section ChangedByte

/-- A byte changed in a frame with a right trailer leaves none with a right trailer: both would sum to zero. -/
theorem set_withTrailer_ne_withTrailer {body : List Byte} {k : Nat} {b : Byte}
    (hne : (withTrailer body).set k b ≠ withTrailer body) (body' : List Byte) :
    (withTrailer body).set k b ≠ withTrailer body' := fun he =>
  hne (set_eq_of_crcFrom_eq _ k b Config.CRC_INIT <|
    calc crc16 ((withTrailer body).set k b) = 0 := by rw [he, crc16_withTrailer]
      _ = crc16 (withTrailer body) := (crc16_withTrailer body).symm)

/-- The trailer check fails on a frame with one byte changed (40_crc.md R105, R107). -/
theorem not_trailer_of_set_withTrailer {body : List Byte} {k : Nat} {b : Byte}
    (hne : (withTrailer body).set k b ≠ withTrailer body) {body' : List Byte} {x y : Byte}
    (he : (withTrailer body).set k b = body' ++ [x, y]) : ¬ (x = lo8 (crc16 body') ∧ y = hi8 (crc16 body')) := by
  rintro ⟨rfl, rfl⟩
  exact set_withTrailer_ne_withTrailer hne body' he

/-- Three bytes or more, as the part of a frame after its address: a function code, a payload and two last bytes. -/
theorem exists_eq_cons_append_pair {bs : List Byte} (h : 3 ≤ bs.length) :
    ∃ fc payload x y, bs = fc :: payload ++ [x, y] := by
  obtain ⟨fc, rest, rfl⟩ := List.exists_cons_of_length_pos (Nat.zero_lt_of_lt h)
  have hl : (rest.drop (rest.length - 2)).length = 2 := by
    rw [List.length_cons] at h
    rw [List.length_drop]
    omega
  obtain ⟨x, y, e⟩ := List.length_eq_two.1 hl
  exact ⟨fc, rest.take (rest.length - 2), x, y, by rw [← e, List.cons_append, List.take_append_drop]⟩

variable {s : State}

theorem exec_dec_of_rejected {st : Status} {t : State} (h : receive s = .rejected st t) :
    exec .dec s = .next (t.setStatus st) := by
  simp [exec, execDec, decodeWith, h]

/-- The address check of a written frame (42_decode.md R133). -/
theorem receive_of_wrong_address {a : Byte} {rest : List Byte} (ha : a ≠ s.unit) (hr : 3 ≤ rest.length)
    (h : s.holdsFrame (a :: rest) = true) : receive s = .rejected .errAddr s := by
  obtain ⟨hlen, hmax, hh⟩ := State.holdsFrame_iff.1 h
  rw [List.length_cons] at hlen hmax
  rw [receive, if_neg (show ¬ 256 < s.flen.toNat by omega), if_neg (show ¬ s.flen.toNat < 4 by omega),
    Memory.draw_of_read? (Memory.holds_cons.1 hh).1]
  exact if_pos ha

variable {fc b : Byte} {payload : List Byte} {k : Nat}

/-- A frame with its address byte changed is not for this device. -/
theorem receive_of_changed_address (hne : (s.goodFrame fc payload).set 0 b ≠ s.goodFrame fc payload)
    (h : s.holdsFrame ((s.goodFrame fc payload).set 0 b) = true) : receive s = .rejected .errAddr s := by
  have hb : b ≠ s.unit := fun e => hne (by rw [e]; rfl)
  exact receive_of_wrong_address hb (by simp) h

/-- A frame with a byte after the address changed fails the trailer check. -/
theorem receive_of_changed_byte (hk : k ≠ 0) (hne : (s.goodFrame fc payload).set k b ≠ s.goodFrame fc payload)
    (h : s.holdsFrame ((s.goodFrame fc payload).set k b) = true) : receive s = .rejected .errCrc s := by
  obtain ⟨k, rfl⟩ := Nat.exists_eq_succ_of_ne_zero hk
  obtain ⟨fc', payload', x, y, e⟩ := exists_eq_cons_append_pair
    (bs := (fc :: payload ++ trailerBytes (crc16 (s.unit :: fc :: payload))).set k b) (by simp)
  have he : (s.goodFrame fc payload).set (k + 1) b = (s.unit :: fc' :: payload') ++ [x, y] :=
    congrArg (s.unit :: ·) e
  rw [receive_of_holdsFrame (he ▸ h), if_pos (not_and_or.1 (not_trailer_of_set_withTrailer hne he))]

end ChangedByte

/-- Settles O23: the trailer check fails whatever byte changed, and `DEC` compares the address before it. -/
theorem oneChangedByteIsDetected : Obligations.OneChangedByteIsDetected := by
  refine ⟨fun body k b body' x y he hne => not_trailer_of_set_withTrailer hne he, fun s fc payload k b hne h => ?_⟩
  split
  · subst_vars
    exact exec_dec_of_rejected (receive_of_changed_address hne h)
  · exact exec_dec_of_rejected (receive_of_changed_byte ‹_› hne h)

/-- Settles O24, by the two ends of `CRC`: the bytes summed are those that reading the cells gives. -/
theorem crcCommandSumsTheFrame : Obligations.CrcCommandSumsTheFrame := by
  intro s
  rcases sumFrame_cases s with ⟨h, e⟩ | ⟨h, bytes, d, hv, e⟩
  · exact ⟨fun h' => by omega, fun _ => congrArg Host.Outcome.next e⟩
  · obtain ⟨rfl, rfl⟩ := Prod.mk.inj hv
    refine ⟨fun _ => ⟨_, _, congrArg Host.Outcome.next e, Memory.length_drawRange .., fun k v hk hr => ?_,
      fun hw => Memory.drawRange_of_written hw _⟩, fun h' => by omega⟩
    exact Memory.getElem?_drawRange hk (by rwa [Nat.zero_add])

/-- Settles O20, part by part: the sum of appended bytes, the iterated bit step, and the byte in bits 7..0. -/
theorem crcTakesBytesInOrder : Obligations.CrcTakesBytesInOrder :=
  ⟨crc16_nil, fun bs b => crcFrom_append Config.CRC_INIT bs [b], fun _ _ => crcBits_eq_iterate 8 _,
    fun c b => ⟨hi8_xor_setWidth c b, lo8_xor_setWidth c b⟩, fun _ => rfl⟩

/-- Settles O22, value by value; the worked frame is its body with the bytes of the sum. -/
theorem crcWorkedValues : Obligations.CrcWorkedValues := by
  have h6 : crc16 [0x01, 0x03, 0x00, 0x00, 0x00, 0x0A] = 0xCDC5 := by decide +kernel
  have htrailer : withTrailer [0x01, 0x03, 0x00, 0x00, 0x00, 0x0A] =
      [0x01, 0x03, 0x00, 0x00, 0x00, 0x0A, 0xC5, 0xCD] := by
    rw [withTrailer, h6]
    rfl
  exact ⟨crc16_nil, by decide, by decide, by decide, by decide +kernel, h6, htrailer, by decide +kernel⟩

end Sys2Proof.Machine
end

section
/-! SUPPORT. The frames that the encode commands build, and `CRC` and `DEC` on them: a built frame is one with the
device's address and a right trailer, so it sums to zero and `DEC` comes to parse its payload (41_encode.md R110, R116,
R118, R119). -/

namespace Sys2Proof.Machine

/-- Each value is its high byte and its low byte (20_memory.md R52). -/
theorem bytesBe_eq_flatMap (vs : List Word) : bytesBe vs = vs.flatMap fun v => [hi8 v, lo8 v] := by
  induction vs with
  | nil => rfl
  | cons v vs ih => simp [bytesBe, ih]

theorem hi8_of_lt {v : Word} (h : v.toNat < 256) : hi8 v = 0 := by
  apply BitVec.eq_of_toNat_eq
  rw [toNat_hi8, Nat.div_eq_of_lt h]
  rfl

/-- The body of `REQ10` as R75 writes it: the high byte of a count that `WB` can hold is zero. -/
theorem req10Body_eq {s : State} (h : s.cnt.toNat ≤ 123) (values : List Word) : req10Body s values =
    [s.unit, 0x10, hi8 s.reg, lo8 s.reg, 0x00, lo8 s.cnt, BitVec.ofNat 8 (2 * s.cnt.toNat)]
      ++ values.flatMap fun v => [hi8 v, lo8 v] := by
  have hcnt : hi8 s.cnt = 0x00 := hi8_of_lt (by omega)
  rw [req10Body, hcnt, bytesBe_eq_flatMap]

/-- Settles O27, by the two ends of `ENC10`: the values sent are those that reading the cells of `WB` gives. -/
theorem encodeWriteMultipleRequest : Obligations.EncodeWriteMultipleRequest := by
  intro s i hi
  have hexec : exec i s = .next (emitReq10 s) := by rcases hi with rfl | rfl <;> rfl
  rw [hexec]
  rcases emitReq10_cases s with ⟨h, e⟩ | ⟨h, values, d, hv, e⟩
  · exact ⟨fun h' => by omega, fun _ => congrArg Host.Outcome.next e⟩
  · obtain ⟨rfl, rfl⟩ := Prod.mk.inj hv
    have hl := Memory.length_drawRange s.wb 0 s.cnt.toNat s.draws
    refine ⟨fun _ => ⟨_, _, hl, fun k v hk hr => Memory.getElem?_drawRange hk (by rwa [Nat.zero_add]),
      fun hw => Memory.drawRange_of_written hw _, ?_⟩, fun h' => by omega⟩
    rintro F rfl
    rw [e, State.placeFrame, length_withTrailer, length_req10Body, hl, req10Body_eq h,
      show 7 + 2 * s.cnt.toNat + 2 = 9 + 2 * s.cnt.toNat by omega]
    rfl

/-- `ENC10` with `OK_FRAME` has built a frame of its function code, with a payload of five bytes or more. -/
theorem emitReq10_of_okFrame {s : State} (h : (emitReq10 s).status = Status.okFrame.code) :
    ∃ payload d, 5 ≤ payload.length ∧ payload.length ≤ 251 ∧
      emitReq10 s = emitFrame (s.unit :: Config.FC_WMR :: payload) (s.setDraws d) := by
  rcases emitReq10_cases s with ⟨hc, -⟩ | ⟨hc, values, d, hv, e⟩
  · rw [emitReq10_status hc, Status.code_inj] at h
    cases h
  · have hl : values.length = s.cnt.toNat := by simpa using congrArg (fun p => p.1.length) hv
    refine ⟨[hi8 s.reg, lo8 s.reg, hi8 s.cnt, lo8 s.cnt, BitVec.ofNat 8 (2 * s.cnt.toNat)] ++ bytesBe values, d,
      ?_, ?_, e⟩ <;> simp only [List.length_append, List.length_cons, List.length_nil, length_bytesBe, hl] <;> omega

/-- An encode command with `OK_FRAME` has built a frame of its own function code. -/
theorem execEncode_of_okFrame {i : Instr} {s t : State} (hi : i = .enc03 ∨ i = .enc06 ∨ i = .enc10)
    (h : exec i s = .next t) (hok : t.status = Status.okFrame.code) :
    ∃ payload d, payload.length ≤ 251 ∧ t = emitFrame (s.unit :: encode i :: payload) (s.setDraws d) := by
  obtain rfl | rfl | rfl := hi <;> obtain rfl := Host.Outcome.next.inj h
  · exact ⟨[hi8 s.reg, lo8 s.reg, hi8 s.cnt, lo8 s.cnt], s.draws, by simp, rfl⟩
  · exact ⟨[hi8 s.reg, lo8 s.reg, hi8 s.val, lo8 s.val], s.draws, by simp, rfl⟩
  · obtain ⟨payload, d, -, hl, e⟩ := emitReq10_of_okFrame hok
    exact ⟨payload, d, hl, e⟩

/-- A payload that fits leaves the buffer holding its frame. -/
theorem emitFrame_holdsFrame (a fc : Byte) {payload : List Byte} (h : payload.length ≤ 252) (s : State) :
    (emitFrame (a :: fc :: payload) s).holdsFrame (withTrailer (a :: fc :: payload)) = true :=
  s.placeFrame_holdsFrame (by simp only [length_withTrailer, List.length_cons]; omega)

/-- Settles O28: the frame is in place, the cells past it are kept (O51), and placing it writes nothing else. -/
theorem encodersPlaceAddressFunctionTrailer : Obligations.EncodersPlaceAddressFunctionTrailer := by
  intro i s t hi h hok
  have hcells a := (cellsOutsideTheResultAreUnchanged i s t h a).2.1
  obtain ⟨payload, d, hl, rfl⟩ := execEncode_of_okFrame hi h hok
  exact ⟨payload, emitFrame_holdsFrame _ _ (by omega) _, fun a ha => hcells a (.inr ha), rfl⟩

/-- Settles O29: `CRC` sums the built frame, whose residue is zero. -/
theorem builtFramesHaveZeroResidue : Obligations.BuiltFramesHaveZeroResidue := by
  intro i s t hi h hok
  obtain ⟨payload, d, hl, rfl⟩ := execEncode_of_okFrame hi h hok
  rw [exec_crc_of_holdsFrame (emitFrame_holdsFrame _ _ (by omega) _), crc16_withTrailer]

theorem parseResponse_read : parseResponse Config.FC_READ = parseRegisters := rfl

theorem parseResponse_writeSingle : parseResponse Config.FC_WSR = parseAck Config.FC_WSR := rfl

theorem parseResponse_writeMultiple : parseResponse Config.FC_WMR = parseAck Config.FC_WMR := rfl

section DecodeOfBuilt

variable (s : State)

/-- `DEC` on a frame just built comes to parse its payload: no check before that fails. -/
theorem execDec_emitFrame (fc : Byte) {payload : List Byte} (h : payload.length ≤ 252) :
    exec .dec (emitFrame (s.unit :: fc :: payload) s) =
      .next (parseResponse fc payload (emitFrame (s.unit :: fc :: payload) s)) :=
  congrArg Host.Outcome.next <| decodeWith_of_goodFrame parseResponse (emitFrame_holdsFrame _ _ h s)

/-- Three data bytes are no even count, so a payload of four bytes is no read response (42_decode.md R137). -/
theorem parseRegisters_of_length_four {payload : List Byte} (h : payload.length = 4) :
    parseRegisters payload s = s.setStatus .errMalformed := by
  rcases parseRegisters_cases payload s with ⟨bc, data, rfl, hbc, hdata, -⟩ | e
  · rw [List.length_cons] at h
    omega
  · exact e

theorem parseAck_of_length_ne_four (fc : Byte) {payload : List Byte} (h : payload.length ≠ 4) :
    parseAck fc payload s = s.setStatus .errMalformed := by
  rcases parseAck_cases fc payload s with ⟨r0, r1, d0, d1, rfl, -⟩ | ⟨-, e⟩
  · exact absurd rfl h
  · exact e

/-- Four payload bytes of two words are acknowledged as those words (42_decode.md R140, R141). -/
theorem parseAck_of_words (fc : Byte) (reg dat : Word) :
    parseAck fc [hi8 reg, lo8 reg, hi8 dat, lo8 dat] s = (s.setAck fc reg dat).setStatus .okWriteack := by
  simp [parseAck]

end DecodeOfBuilt

/-- Settles O30: the payload of `ENC06` is an acknowledgement, that of `ENC03` no read response and that of `ENC10`
too long for an acknowledgement. -/
theorem decodeOfBuiltRequest : Obligations.DecodeOfBuiltRequest := by
  refine fun s t => ⟨fun h => ?_, fun h => ?_, fun h hok => ?_⟩ <;> obtain rfl := Host.Outcome.next.inj h
  · have hdec := execDec_emitFrame s Config.FC_WSR (payload := [hi8 s.reg, lo8 s.reg, hi8 s.val, lo8 s.val]) (by simp)
    rw [parseResponse_writeSingle, parseAck_of_words] at hdec
    exact hdec
  · have hdec := execDec_emitFrame s Config.FC_READ (payload := [hi8 s.reg, lo8 s.reg, hi8 s.cnt, lo8 s.cnt]) (by simp)
    rw [parseResponse_read, parseRegisters_of_length_four _ rfl] at hdec
    exact hdec
  · obtain ⟨payload, d, hmin, hmax, e⟩ := emitReq10_of_okFrame hok
    rw [e]
    have hdec := execDec_emitFrame (s.setDraws d) Config.FC_WMR (payload := payload) (by omega)
    rw [parseResponse_writeMultiple, parseAck_of_length_ne_four _ _ (by omega)] at hdec
    exact hdec

end Sys2Proof.Machine
end

section
/-! SUPPORT. The decode command and the response formats: what the checks of a frame reject, what each parse leaves, and
what a decode may write (42_decode.md R130 to R144). -/

namespace Sys2Proof.Machine

/-! The parse that a row comes to once the checks have passed. -/

/-- The parse of `DEC` and of each response format (42_decode.md R130; log entry 5). -/
def parseOf : Instr → Byte → List Byte → State → State
  | .rsp03 => parseAsRsp03
  | .rsp06 => parseAsRsp06
  | .rsp10 => parseAsRsp10
  | .rspexc _ => parseAsRspexc
  | _ => parseResponse

/-- The statuses of the checks that come before the payload (42_decode.md R131 to R134). -/
def frameCheckErrors : List Status := [.errParam, .errShort, .errAddr, .errCrc]

section Rows

variable {s : State} {i : Instr} (hi : i = .dec ∨ i.space = .rsp)
include hi

theorem exec_eq_decodeWith_parseOf (s : State) : exec i s = .next (decodeWith (parseOf i) s) := by
  cases i with
  | dec | rsp03 | rsp06 | rsp10 | rspexc => rfl
  | _ => simp [Instr.space] at hi

theorem exec_of_rejected {st : Status} {t : State} (h : receive s = .rejected st t) :
    exec i s = .next (t.setStatus st) := by
  rw [exec_eq_decodeWith_parseOf hi, decodeWith, h]
  rfl

theorem exec_of_accepted {fc : Byte} {payload : List Byte} {t : State} (h : receive s = .accepted fc payload t) :
    exec i s = .next (parseOf i fc payload t) := by
  rw [exec_eq_decodeWith_parseOf hi, decodeWith, h]

theorem exec_of_goodFrame {fc : Byte} {payload : List Byte} (h : s.holdsFrame (s.goodFrame fc payload) = true) :
    exec i s = .next (parseOf i fc payload s) :=
  exec_of_accepted hi (receive_of_goodFrame h)

/-- Every row that receives a frame may end with each error of the checks. -/
theorem frameCheckErrors_subset_outcomes : frameCheckErrors ⊆ Instr.outcomes i := by
  cases i with
  | dec | rsp03 | rsp06 | rsp10 | rspexc => simp [frameCheckErrors, Instr.outcomes]
  | _ => simp [Instr.space] at hi

end Rows

/-! The checks before the payload, one lemma per error. -/
section Checks

variable {s : State}

theorem receive_of_overlong (h : 256 < s.flen.toNat) : receive s = .rejected .errParam s := if_pos h

theorem receive_of_short (h : s.flen.toNat < 4) : receive s = .rejected .errShort s := by
  rw [receive, if_neg (show ¬ 256 < s.flen.toNat by omega)]
  exact if_pos h

/-- The address check reads `FB[0]` alone (42_decode.md R133). -/
theorem receive_of_wrong_first_byte {a : Byte} (h4 : 4 ≤ s.flen.toNat) (h256 : s.flen.toNat ≤ 256)
    (h0 : s.fb.read? 0 = some a) (ha : a ≠ s.unit) : receive s = .rejected .errAddr s := by
  rw [receive, if_neg (Nat.not_lt.2 h256), if_neg (Nat.not_lt.2 h4), Memory.draw_of_read? h0]
  exact if_pos ha

end Checks

/-! The statuses that a parse may leave: those of its row, and none of the checks before it. -/
section Statuses

variable {i : Instr} (fc : Byte) (payload : List Byte) (s : State)

/-- `STATUS` is one of the listed statuses. -/
def State.endsIn (t : State) (l : List Status) : Prop := ∃ st ∈ l, t.status = st.code

theorem State.endsIn.mono {t : State} {l l' : List Status} (h : t.endsIn l) (hl : l ⊆ l') : t.endsIn l' := by
  obtain ⟨st, hst, e⟩ := h
  exact ⟨st, hl hst, e⟩

/-- The statuses of a row that its checks before the payload do not give. -/
def payloadOutcomes (i : Instr) : List Status := (Instr.outcomes i).filter (· ∉ frameCheckErrors)

theorem raise_errMalformed_endsIn {l : List Status} (h : .errMalformed ∈ l) : (raise .errMalformed s).endsIn l :=
  ⟨.errMalformed, h, rfl⟩

theorem parseException_endsIn : (parseException payload s).endsIn [.okException, .errMalformed] := by
  rcases parseException_cases payload s with ⟨code, -, e⟩ | ⟨-, e⟩ <;> rw [e]
  · exact ⟨.okException, by decide, rfl⟩
  · exact raise_errMalformed_endsIn s (by decide)

theorem parseRegisters_endsIn : (parseRegisters payload s).endsIn [.okRegisters, .errMalformed] := by
  rcases parseRegisters_cases payload s with ⟨bc, data, -, -, -, e⟩ | e <;> rw [e]
  · exact ⟨.okRegisters, by decide, rfl⟩
  · exact raise_errMalformed_endsIn s (by decide)

theorem parseAck_endsIn : (parseAck fc payload s).endsIn [.okWriteack, .errMalformed] := by
  rcases parseAck_cases fc payload s with ⟨r0, r1, d0, d1, -, e⟩ | ⟨-, e⟩ <;> rw [e]
  · exact ⟨.okWriteack, by decide, rfl⟩
  · exact raise_errMalformed_endsIn s (by decide)

theorem parseResponse_endsIn : (parseResponse fc payload s).endsIn (payloadOutcomes .dec) := by
  rcases parseResponse_cases fc payload s with ⟨-, e⟩ | ⟨-, e⟩ | ⟨-, e⟩ | ⟨-, -, -, -, e⟩ <;> rw [e]
  · exact (parseException_endsIn payload s).mono (by decide)
  · exact (parseRegisters_endsIn payload s).mono (by decide)
  · exact (parseAck_endsIn fc payload s).mono (by decide)
  · exact raise_errMalformed_endsIn s (by decide)

/-- A row that parses one format only ends as that parse, or as malformed. -/
theorem State.endsIn_ite_malformed (c : Prop) [Decidable c] {ok : Status} {t : State}
    (ht : t.endsIn [ok, .errMalformed]) :
    (if c then t else raise .errMalformed s).endsIn [ok, .errMalformed] := by
  split
  · exact ht
  · exact raise_errMalformed_endsIn s (by simp)

theorem parseOf_endsIn (hi : i = .dec ∨ i.space = .rsp) : (parseOf i fc payload s).endsIn (payloadOutcomes i) := by
  cases i with
  | dec => exact parseResponse_endsIn fc payload s
  | rsp03 => exact State.endsIn_ite_malformed s _ (parseRegisters_endsIn payload s)
  | rsp06 | rsp10 => exact State.endsIn_ite_malformed s _ (parseAck_endsIn fc payload s)
  | rspexc low => exact State.endsIn_ite_malformed s _ (parseException_endsIn payload s)
  | _ => simp [Instr.space] at hi

end Statuses

/-- Settles O34: the trailer check decides, and no parse leaves a status of the checks before it. -/
theorem trailerDecidesCrcError : Obligations.TrailerDecidesCrcError := by
  intro s i fc payload x y hi h
  have hr := receive_of_holdsFrame h
  refine ⟨fun hbad => ?_, fun hgood => ?_⟩
  · exact exec_of_rejected hi (hr.trans (if_pos hbad))
  · obtain ⟨st, hst, e⟩ := parseOf_endsIn fc payload s hi
    have hcheck : st ∉ frameCheckErrors := by simpa using (List.mem_filter.1 hst).2
    refine ⟨_, exec_of_accepted hi (hr.trans (if_neg ?_)), ?_⟩
    · exact not_or.2 ⟨not_not.2 hgood.1, not_not.2 hgood.2⟩
    · simpa [e, frameCheckErrors] using hcheck

/-- Settles O31, by the first check. -/
theorem overlongFrameIsParameterError : Obligations.OverlongFrameIsParameterError :=
  fun _ _ hi h => exec_of_rejected hi (receive_of_overlong h)

/-- Settles O32, by the second check, which comes before any read of `FB`. -/
theorem shortFrameIsRejectedUnread : Obligations.ShortFrameIsRejectedUnread :=
  fun _ _ hi h => exec_of_rejected hi (receive_of_short h)

/-- Settles O33, by the third check. -/
theorem wrongAddressIsRejectedFirst : Obligations.WrongAddressIsRejectedFirst :=
  fun _ _ _ hi h4 h256 h0 ha => exec_of_rejected hi (receive_of_wrong_first_byte h4 h256 h0 ha)

/-- Settles O39: a check's error is listed for every row, and a parse leaves a status of its row. -/
theorem decodeIsTotal : Obligations.DecodeIsTotal := by
  intro s i hi
  refine ⟨_, exec_eq_decodeWith_parseOf hi s, ?_⟩
  have hchecks := frameCheckErrors_subset_outcomes hi
  rcases decodeWith_cases (parseOf i) s with
    ⟨-, e⟩ | ⟨-, e⟩ | ⟨-, -, ⟨d, e⟩ | ⟨d, e⟩ | ⟨fc, payload, d, -, e⟩⟩ <;> rw [e]
  · exact ⟨.errParam, hchecks (by decide), rfl⟩
  · exact ⟨.errShort, hchecks (by decide), rfl⟩
  · exact ⟨.errAddr, hchecks (by decide), rfl⟩
  · exact ⟨.errCrc, hchecks (by decide), rfl⟩
  · exact (parseOf_endsIn fc payload _ hi).mono (List.filter_subset_self _)

/-! The parse of a frame with a right trailer, row by row. -/
section Payloads

variable {s : State} {i : Instr} {fc : Byte} {payload : List Byte}

/-- A function code with bit 7 set is an exception response for `DEC` and for `RSPEXC` (42_decode.md R135). -/
theorem parseOf_exception (hi : i = .dec ∨ ∃ low, i = .rspexc low) (h7 : fc.getLsbD 7 = true) :
    parseOf i fc payload s = parseException payload s := by
  rcases hi with rfl | ⟨low, rfl⟩ <;> exact if_pos h7

/-- The function code 0x03 is a read response for `DEC` and for `RSP03` (42_decode.md R136). -/
theorem parseOf_read (hi : i = .dec ∨ i = .rsp03) : parseOf i 0x03 payload s = parseRegisters payload s := by
  rcases hi with rfl | rfl <;> rfl

/-- The function codes 0x06 and 0x10 are acknowledgements for `DEC` and each for its own row (42_decode.md R140). -/
theorem parseOf_ack
    (hi : (i = .dec ∧ (fc = 0x06 ∨ fc = 0x10)) ∨ (i = .rsp06 ∧ fc = 0x06) ∨ (i = .rsp10 ∧ fc = 0x10)) :
    parseOf i fc payload s = parseAck fc payload s := by
  rcases hi with ⟨rfl, rfl | rfl⟩ | ⟨rfl, rfl⟩ | ⟨rfl, rfl⟩ <;> rfl

theorem parseOf_dec_of_no_format (h : decodeRsp fc = none) :
    parseOf .dec fc payload s = s.setStatus .errMalformed := by
  obtain ⟨h7, h3, h6, h10⟩ := decodeRsp_eq_none_iff.1 h
  rcases parseResponse_cases fc payload s with ⟨h, -⟩ | ⟨h, -⟩ | ⟨h, -⟩ | ⟨-, -, -, -, e⟩
  · exact absurd (h7.symm.trans h) Bool.false_ne_true
  · exact absurd h h3
  · exact absurd h (not_or.2 ⟨h6, h10⟩)
  · exact e

/-- A row of a response format parses its own function codes only (log entry 5). -/
theorem parseOf_other_format
    (hi : (i = .rsp03 ∧ fc ≠ 0x03) ∨ (i = .rsp06 ∧ fc ≠ 0x06) ∨ (i = .rsp10 ∧ fc ≠ 0x10) ∨
      (∃ low, i = .rspexc low ∧ fc.getLsbD 7 = false)) :
    parseOf i fc payload s = s.setStatus .errMalformed := by
  rcases hi with ⟨rfl, h⟩ | ⟨rfl, h⟩ | ⟨rfl, h⟩ | ⟨low, rfl, h⟩
  · exact if_neg (mt decodeRsp_fixed.1 h)
  · exact if_neg (mt decodeRsp_fixed.2.1 h)
  · exact if_neg (mt decodeRsp_fixed.2.2 h)
  · exact if_neg (Bool.eq_false_iff.1 h)

/-- A function code that selects no format is malformed for every row (42_decode.md R142). -/
theorem parseOf_of_no_format (hi : i = .dec ∨ i.space = .rsp) (h : decodeRsp fc = none) :
    parseOf i fc payload s = s.setStatus .errMalformed := by
  obtain ⟨h7, h3, h6, h10⟩ := decodeRsp_eq_none_iff.1 h
  cases i with
  | dec => exact parseOf_dec_of_no_format h
  | rsp03 => exact parseOf_other_format (.inl ⟨rfl, h3⟩)
  | rsp06 => exact parseOf_other_format (.inr (.inl ⟨rfl, h6⟩))
  | rsp10 => exact parseOf_other_format (.inr (.inr (.inl ⟨rfl, h10⟩)))
  | rspexc low => exact parseOf_other_format (.inr (.inr (.inr ⟨low, rfl, h7⟩)))
  | _ => simp [Instr.space] at hi

theorem parseException_of_length_ne_one (h : payload.length ≠ 1) :
    parseException payload s = s.setStatus .errMalformed := by
  rcases parseException_cases payload s with ⟨code, rfl, -⟩ | ⟨-, e⟩
  · exact absurd rfl h
  · exact e

end Payloads

/-- Settles O35, by the parse of an exception response. -/
theorem exceptionResponseGivesItsCode : Obligations.ExceptionResponseGivesItsCode := by
  intro s i fc payload hi h7 hs
  have hrow : i = .dec ∨ i.space = .rsp := hi.imp_right fun ⟨low, h⟩ => congrArg Instr.space h
  rw [exec_of_goodFrame hrow hs, parseOf_exception hi h7]
  refine ⟨?_, fun hl => congrArg Host.Outcome.next (parseException_of_length_ne_one hl)⟩
  rintro code rfl
  rfl

/-- Settles O37, by the parse of an acknowledgement. -/
theorem acknowledgementExposesItsFields : Obligations.AcknowledgementExposesItsFields := by
  intro s i fc payload hi hs
  have hrow : i = .dec ∨ i.space = .rsp := by
    rcases hi with ⟨rfl, -⟩ | ⟨rfl, -⟩ | ⟨rfl, -⟩ <;> decide
  rw [exec_of_goodFrame hrow hs, parseOf_ack hi]
  refine ⟨?_, fun hl => congrArg Host.Outcome.next (parseAck_of_length_ne_four s fc hl)⟩
  rintro r0 r1 d0 d1 rfl
  rfl

/-- Settles O38: the code selects no format for `DEC`, and another format than the row's own for a row. -/
theorem otherFunctionCodesAreMalformed : Obligations.OtherFunctionCodesAreMalformed := by
  intro s i fc payload hs
  refine ⟨fun ⟨hi, hcode⟩ => ?_, fun hi => ?_⟩
  · rw [exec_of_goodFrame hi hs, parseOf_of_no_format hi (decodeRsp_eq_none_iff.2 hcode)]
    rfl
  · have hrow : i = .dec ∨ i.space = .rsp := by
      rcases hi with ⟨rfl, -⟩ | ⟨rfl, -⟩ | ⟨rfl, -⟩ | ⟨low, rfl, -⟩ <;> exact .inr rfl
    rw [exec_of_goodFrame hrow hs, parseOf_other_format hi]
    rfl

/-! The parse of a read response. -/
section Registers

variable {s : State} {bc : Byte} {data : List Byte}

theorem parseRegisters_of_right_count (hbc : bc.toNat = 2 * s.cnt.toNat) (hdata : data.length = bc.toNat) :
    parseRegisters (bc :: data) s = (s.setRegisters (wordsBe data)).setStatus .okRegisters := if_pos ⟨hbc, hdata⟩

theorem parseRegisters_of_wrong_count (h : ¬ (bc.toNat = 2 * s.cnt.toNat ∧ data.length = bc.toNat)) :
    parseRegisters (bc :: data) s = s.setStatus .errMalformed := if_neg h

/-- `RB` after the registers of `n` byte pairs: each pair in its cell, and the cells from `n` on as before
(42_decode.md R138). -/
theorem Memory.read?_writes_wordsBe (m : Memory 16) {n : Nat} (h : data.length = 2 * n) :
    (∀ k, k < n → ∃ a b, data[2 * k]? = some a ∧ data[2 * k + 1]? = some b ∧
      (m.writes 0 (wordsBe data)).read? k = some (be16 a b)) ∧
    ∀ k, n ≤ k → (m.writes 0 (wordsBe data)).read? k = m.read? k := by
  have hlen : (wordsBe data).length = n := by
    rw [length_wordsBe]
    omega
  refine ⟨fun k hk => ?_, fun k hk => Memory.read?_writes_outside m 0 _ (by omega)⟩
  obtain ⟨a, b, ha, hb, hw⟩ := getElem?_wordsBe data k n h hk
  obtain ⟨hk', e⟩ := List.getElem?_eq_some_iff.1 hw
  exact ⟨a, b, ha, hb, by rw [← e, ← Memory.read?_writes_inside m 0 _ hk', Nat.zero_add]⟩

end Registers

/-- Settles O36, by the parse of a read response; the frame's capacity bounds `CNT`. -/
theorem readResponseFillsRegisters : Obligations.ReadResponseFillsRegisters := by
  intro s i payload hi hs
  have hrow : i = .dec ∨ i.space = .rsp := hi.imp_right (congrArg Instr.space)
  rw [exec_of_goodFrame hrow hs, parseOf_read hi]
  refine ⟨?_, ?_⟩
  · rintro rfl
    rfl
  rintro bc data rfl
  refine ⟨fun ⟨hbc, hdata⟩ => ?_, fun h => congrArg Host.Outcome.next (parseRegisters_of_wrong_count h)⟩
  obtain ⟨-, hmax, -⟩ := State.holdsFrame_iff.1 hs
  have hcnt : s.cnt.toNat ≤ 125 := by
    simp only [State.goodFrame, length_withTrailer, List.length_cons] at hmax
    omega
  obtain ⟨hregs, hkept⟩ := Memory.read?_writes_wordsBe s.rb (hdata.trans hbc)
  rw [parseRegisters_of_right_count hbc hdata]
  exact ⟨hcnt, _, rfl, by rw [BitVec.ofNat_toNat]; rfl, hregs, hkept⟩

/-- The result group that each kind of end writes (42_decode.md R144). -/
theorem DecodeEnd.resultGroup {s t : State} (h : DecodeEnd s t) :
    (t.status.getLsbD 3 = true → t = { s with status := t.status, draws := t.draws }) ∧
    (t.status = Status.okRegisters.code →
      t = { s with rb := t.rb, rcnt := t.rcnt, status := t.status, draws := t.draws }) ∧
    (t.status = Status.okException.code → t = { s with exc := t.exc, status := t.status, draws := t.draws }) ∧
    (t.status = Status.okWriteack.code →
      t = { s with ackfc := t.ackfc, ackreg := t.ackreg, ackdat := t.ackdat, status := t.status,
                   draws := t.draws }) := by
  cases h with
  | error st d h => exact ⟨fun _ => rfl, fun _ => rfl, fun _ => rfl, fun _ => rfl⟩
  | exception code d h => exact ⟨by simp +decide, by simp, fun _ => rfl, by simp⟩
  | registers values d hv hc h => exact ⟨by simp +decide, fun _ => rfl, by simp, by simp⟩
  | ack fc reg dat d hf h => exact ⟨by simp +decide, by simp, by simp, fun _ => rfl⟩

/-- Settles O40, by the ends of `DEC`. -/
theorem decodeWritesOneResultGroup : Obligations.DecodeWritesOneResultGroup := by
  intro s t h
  obtain ⟨u, hu, hend⟩ := execDec_end s
  obtain rfl := Host.Outcome.next.inj (h.symm.trans hu)
  exact hend.resultGroup

end Sys2Proof.Machine
end

section
/-! SUPPORT. `FTD` on six registers: which cell of `FT` holds which channel (43_sensor_decode.md R160, R165). -/

namespace Sys2Proof.Machine

/-- The signed reading as 43_sensor_decode.md R163 words it. -/
theorem s16_eq_ite (v : Word) : s16 v = if v.toNat ≤ 0x7FFF then (v.toNat : Int) else (v.toNat : Int) - 65536 := by
  simp only [s16, Nat.lt_succ_iff]

/-- The cells of `FT` after a sample: each of its channels in order, and the cells beyond it as before. -/
theorem State.read?_setSample (s : State) (values : List Word) :
    (∀ k v, values[k]? = some v → (s.setSample (sampleFrom 0 values)).ft.read? k = some (channelValue k v)) ∧
    ∀ k, values.length ≤ k → (s.setSample (sampleFrom 0 values)).ft.read? k = s.ft.read? k := by
  rw [State.setSample_ft]
  refine ⟨fun k v hv => ?_, fun k hk => Memory.read?_writes_outside _ _ _ (by simpa using hk)⟩
  obtain ⟨hk, e⟩ := List.getElem?_eq_some_iff.1
    (show (sampleFrom 0 values)[k]? = some (channelValue k v) by rw [getElem?_sampleFrom, hv, Nat.zero_add]; rfl)
  rw [← e, ← Memory.read?_writes_inside s.ft 0 _ hk, Nat.zero_add]

/-- Settles O43, by the two ends of `FTD`. -/
theorem sensorDecodeScalesSixRegisters : Obligations.SensorDecodeScalesSixRegisters := by
  intro s
  obtain ⟨hr, e⟩ | ⟨hr, values, d, hv, e⟩ := decodeSample_cases s
  · exact ⟨fun _ => congrArg Host.Outcome.next e, fun h => absurd h (by omega)⟩
  · refine ⟨fun h => absurd h (by omega), fun _ => ⟨_, congrArg Host.Outcome.next e, rfl, fun hw => ?_, ?_, ?_⟩⟩
    all_goals obtain ⟨rfl, rfl⟩ := Prod.ext_iff.1 hv
    · exact Memory.drawRange_of_written hw _
    · intro k hk
      have hlen : k < (s.rb.drawRange 0 6 s.draws).1.length := by simpa using hk
      refine ⟨(s.rb.drawRange 0 6 s.draws).1[k], fun u hu => ?_, ?_⟩
      · have hu' := Memory.getElem?_drawRange (d := s.draws) hk (show s.rb.read? (0 + k) = some u by rwa [Nat.zero_add])
        exact Option.some.inj ((List.getElem?_eq_getElem hlen).symm.trans hu')
      · rw [← s16_eq_ite]
        exact (State.read?_setSample _ _).1 k _ (List.getElem?_eq_getElem hlen)
    · intro k hk
      exact (State.read?_setSample _ _).2 k (by simpa using hk)

/-- Settles O46: the registers are read as held, and their six channel values are computed. -/
theorem documentExampleSample : Obligations.DocumentExampleSample := by
  refine ⟨fun s hr hb => ?_, by decide +kernel⟩
  obtain ⟨hr', -⟩ | ⟨-, values, d, hv, e⟩ := decodeSample_cases s
  · omega
  · obtain ⟨rfl, rfl⟩ := Prod.ext_iff.1 (hv.trans (Memory.drawRange_of_holds hb s.draws))
    have hsample : sampleFrom 0 [0x00FA, 0xFED4, 0x03E8, 0x01F4, 0xFA24, 0x0000] = [0x4004000000000000,
        0xC008000000000000, 0x4024000000000000, 0x3FE0000000000000, 0xBFF8000000000000, 0x0000000000000000] := by
      decide +kernel
    rw [hsample] at e
    exact congrArg Host.Outcome.next e

/-- Settles O47: sixteen closed roundings, computed. -/
theorem channelCornerPatterns : Obligations.ChannelCornerPatterns := by
  unfold Obligations.ChannelCornerPatterns
  decide +kernel

end Sys2Proof.Machine
end

section
/-! SUPPORT. `flt` as a rounding to a grid: the unit in the last place is fixed by the quotient's binade, `flt` is the
integer nearest to the quotient in that unit, and every other value of the format is an integer in that unit or lies
below the quotient's binade (43_sensor_decode.md R164). -/

namespace Sys2Proof.Machine

/-! Rounding to the nearest integer. -/

/-- `r` is less than a half away from `t`, or a half away and even. -/
def RoundsTo (t : ℚ) (r : Nat) : Prop := |(r : ℚ) - t| < 1 / 2 ∨ (|(r : ℚ) - t| = 1 / 2 ∧ r % 2 = 0)

theorem roundsTo_roundHalfEven {d : Nat} (n : Nat) (hd : 0 < d) : RoundsTo ((n : ℚ) / d) (roundHalfEven n d) := by
  have hd' : (0 : ℚ) < d := by exact_mod_cast hd
  have hquot : (n : ℚ) / d = (n / d : ℕ) + (n % d : ℕ) / d := by
    rw [div_eq_iff hd'.ne', add_mul, div_mul_cancel₀ _ hd'.ne']
    exact_mod_cast (Nat.div_add_mod' n d).symm
  have hlt : ((n % d : ℕ) : ℚ) / d < 1 := (div_lt_one hd').2 (by exact_mod_cast Nat.mod_lt n hd)
  have hnonneg : 0 ≤ ((n % d : ℕ) : ℚ) / d := by positivity
  have hless : ((n % d : ℕ) : ℚ) / d < 1 / 2 ↔ 2 * (n % d) < d := by
    rw [div_lt_div_iff₀ hd' two_pos, one_mul, mul_comm]
    exact_mod_cast Iff.rfl
  have hhalf : ((n % d : ℕ) : ℚ) / d = 1 / 2 ↔ 2 * (n % d) = d := by
    rw [div_eq_div_iff hd'.ne' two_ne_zero, one_mul, mul_comm]
    exact_mod_cast Iff.rfl
  rw [roundHalfEven, hquot, RoundsTo]
  split
  next h =>
    rw [sub_add_cancel_left, abs_neg, abs_of_nonneg hnonneg, hless, hhalf]
    exact h
  next h =>
    rw [Nat.cast_succ, add_sub_add_left_eq_sub, abs_of_pos (by linarith)]
    obtain hgt | heq : 1 / 2 < ((n % d : ℕ) : ℚ) / d ∨ 2 * (n % d) = d :=
      (lt_or_ge (1 / 2) _).imp_right fun hle => hhalf.1 (hle.antisymm (not_lt.1 fun h' => h (.inl (hless.1 h'))))
    · left; linarith
    · exact .inr ⟨by rw [hhalf.2 heq]; norm_num, by omega⟩

theorem RoundsTo.error_le {r : Nat} {t : ℚ} (h : RoundsTo t r) : |(r : ℚ) - t| ≤ 1 / 2 :=
  h.elim le_of_lt fun h => h.1.le

/-- What `t` rounds to is nearest to it among the integers, and even in a tie. -/
theorem RoundsTo.nearest {r : Nat} {t : ℚ} (h : RoundsTo t r) (z : Int) :
    |(r : ℚ) - t| < |(z : ℚ) - t| ∨ (|(r : ℚ) - t| = |(z : ℚ) - t| ∧ ((z : ℚ) = r ∨ r % 2 = 0)) := by
  by_cases hz : z = r
  · subst hz
    exact .inr ⟨rfl, .inl rfl⟩
  · have hone : (1 : ℚ) ≤ |(z : ℚ) - r| := by exact_mod_cast Int.one_le_abs (sub_ne_zero.2 hz)
    have htri : |(z : ℚ) - r| ≤ |(z : ℚ) - t| + |(r : ℚ) - t| := abs_sub_comm (r : ℚ) t ▸ abs_sub_le _ _ _
    obtain h | ⟨h, heven⟩ := h
    · left; linarith
    · obtain hlt | heq := lt_or_eq_of_le (show |(r : ℚ) - t| ≤ |(z : ℚ) - t| by linarith)
      · exact .inl hlt
      · exact .inr ⟨heq, .inr heven⟩

/-! The grid of a quotient, and its rounding. -/

/-- The exponent of the unit in the last place of `n / d` in binary64, counted from the least one, `2 ^ -1074`: the
subnormal numbers and the lowest binade share it. -/
def ulpExponent (n d : Nat) : Nat := (binade n d + 1022).toNat

/-- The unit in the last place whose exponent, so counted, is `e`. -/
def ulp (e : Nat) : ℚ := 2 ^ ((e : Int) - 1074)

/-- `n / d` rounded to an integer in units of its last place. -/
def roundedSignificand (n d : Nat) : Nat :=
  roundHalfEven (scaleBy n d (1074 - ulpExponent n d)).1 (scaleBy n d (1074 - ulpExponent n d)).2

theorem ulp_pos (e : Nat) : 0 < ulp e := by
  rw [ulp]
  positivity

theorem two_pow_mul_ulp (k e : Nat) : 2 ^ k * ulp e = 2 ^ ((e : Int) + k - 1074) := by
  rw [ulp, ← zpow_natCast, ← zpow_add₀ two_ne_zero]
  congr 1
  ring

/-- A unit is a whole number of any unit that is not greater. -/
theorem ulp_eq_pow_mul {e e' : Nat} (h : e ≤ e') : ulp e' = 2 ^ (e' - e) * ulp e := by
  rw [two_pow_mul_ulp, ulp]
  congr 1
  omega

section Grid

variable {n d : Nat}

theorem magnitudeBits_eq_min (n d : Nat) : magnitudeBits Config.binary64 n d =
    min (ulpExponent n d * 2 ^ 52 + roundedSignificand n d) (2047 * 2 ^ 52) := by
  have hbias : bias Config.binary64 = 1023 := by decide
  have he : max (binade n d) (1 - (1023 : ℕ)) = ulpExponent n d - 1022 := by
    rw [ulpExponent]
    omega
  have hfield : ((ulpExponent n d : Int) - 1022 + (1023 : ℕ) - 1).toNat = ulpExponent n d := by omega
  have hscale : ((52 : ℕ) : Int) - (ulpExponent n d - 1022) = 1074 - ulpExponent n d := by omega
  simp only [magnitudeBits, hbias, he, hfield, hscale]
  rfl

/-- Scaling gives the quotient in units of the last place. -/
theorem scaleBy_div (n d e : Nat) : ((scaleBy n d (1074 - e)).1 : ℚ) / (scaleBy n d (1074 - e)).2 = n / d / ulp e := by
  have hulp : ulp e = 2 ^ (-(1074 - (e : Int))).toNat / 2 ^ (1074 - (e : Int)).toNat := by
    rw [ulp, ← zpow_natCast, ← zpow_natCast, ← zpow_sub₀ two_ne_zero]
    congr 1
    omega
  rw [hulp, scaleBy, div_div_div_eq]
  push_cast
  rfl

theorem roundsTo_roundedSignificand (n : Nat) (hd : 0 < d) :
    RoundsTo ((n : ℚ) / d / ulp (ulpExponent n d)) (roundedSignificand n d) := by
  rw [← scaleBy_div]
  exact roundsTo_roundHalfEven _ (Nat.mul_pos hd (Nat.two_pow_pos _))

/-- The unit follows the binade down to the least unit. -/
theorem binade_ulpExponent (n d : Nat) : binade n d + 1 ≤ (ulpExponent n d : Int) - 1021 ∧
    (ulpExponent n d ≠ 0 → binade n d = (ulpExponent n d : Int) - 1022) := by
  rw [ulpExponent]
  omega

/-- A quotient is below `2 ^ 53` of its units and, but for the least unit, not below `2 ^ 52` of them. -/
theorem quotient_bounds (hn : 0 < n) (hd : 0 < d) : (n : ℚ) / d / ulp (ulpExponent n d) < 2 ^ 53 ∧
    (ulpExponent n d ≠ 0 → 2 ^ 52 ≤ (n : ℚ) / d / ulp (ulpExponent n d)) := by
  obtain ⟨hlow, hhigh⟩ := binade_spec hn hd
  obtain ⟨hle, heq⟩ := binade_ulpExponent n d
  rw [div_lt_iff₀ (ulp_pos _), le_div_iff₀ (ulp_pos _), two_pow_mul_ulp, two_pow_mul_ulp]
  refine ⟨hhigh.trans_le (zpow_le_zpow_right₀ one_le_two ?_), fun he => (zpow_le_zpow_right₀ one_le_two ?_).trans hlow⟩
  · omega
  · have := heq he
    omega

/-- A rounded significand has its full length unless the unit is the least one; it may carry to `2 ^ 53`. -/
theorem roundedSignificand_bounds (hn : 0 < n) (hd : 0 < d) : roundedSignificand n d ≤ 2 ^ 53 ∧
    (ulpExponent n d ≠ 0 → 2 ^ 52 ≤ roundedSignificand n d) := by
  obtain ⟨hhigh, hlow⟩ := quotient_bounds hn hd
  obtain ⟨hbelow, habove⟩ := abs_le.1 (roundsTo_roundedSignificand n hd).error_le
  refine ⟨Nat.lt_succ_iff.1 ?_, fun he => Nat.lt_succ_iff.1 ?_⟩
  · rw [← Nat.cast_lt (α := ℚ)]
    push_cast
    linarith
  · have := hlow he
    rw [← Nat.cast_lt (α := ℚ)]
    push_cast
    linarith

/-- The rounded quotient is nearest among the integers below `2 ^ 53` in any unit: in a unit that is not smaller they
are integers in the quotient's own unit, and in a smaller one they lie below the quotient's binade. -/
theorem roundedSignificand_nearest (hn : 0 < n) (hd : 0 < d) {z : Int} (hz : |z| < 2 ^ 53) (e : Nat) :
    |roundedSignificand n d * ulp (ulpExponent n d) - (n : ℚ) / d| < |z * ulp e - (n : ℚ) / d| ∨
    (|roundedSignificand n d * ulp (ulpExponent n d) - (n : ℚ) / d| = |z * ulp e - (n : ℚ) / d| ∧
      (z * ulp e = roundedSignificand n d * ulp (ulpExponent n d) ∨ roundedSignificand n d % 2 = 0)) := by
  have hnear := (roundsTo_roundedSignificand n hd).nearest
  obtain ⟨-, hlow⟩ := quotient_bounds hn hd
  have hu := ulp_pos (ulpExponent n d)
  have hdist (y : ℚ) : |y * ulp (ulpExponent n d) - (n : ℚ) / d| =
      |y - n / d / ulp (ulpExponent n d)| * ulp (ulpExponent n d) := by
    rw [← abs_of_pos hu, ← abs_mul, abs_of_pos hu, sub_mul, div_mul_cancel₀ _ hu.ne']
  obtain hle | hlt := le_or_gt (ulpExponent n d) e
  · have hzu : z * ulp e = ((z * 2 ^ (e - ulpExponent n d) : Int) : ℚ) * ulp (ulpExponent n d) := by
      rw [ulp_eq_pow_mul hle]
      push_cast
      ring
    rw [hzu, hdist, hdist, mul_lt_mul_iff_left₀ hu, mul_left_inj' hu.ne', mul_left_inj' hu.ne']
    exact hnear _
  · left
    have hq : 2 ^ 52 * ulp (ulpExponent n d) ≤ (n : ℚ) / d := (le_div_iff₀ hu).1 (hlow (by omega))
    have hbelow : z * ulp e < 2 ^ 52 * ulp (ulpExponent n d) := by
      have hzq : (z : ℚ) < 2 ^ 53 := by exact_mod_cast (abs_lt.1 hz).2
      refine (mul_lt_mul_of_pos_right hzq (ulp_pos e)).trans_le ?_
      rw [two_pow_mul_ulp, two_pow_mul_ulp]
      exact zpow_le_zpow_right₀ one_le_two (by omega)
    have hbinade : |2 ^ 52 * ulp (ulpExponent n d) - (n : ℚ) / d| < |z * ulp e - (n : ℚ) / d| := by
      rw [abs_of_nonpos (by linarith), abs_of_neg (by linarith)]
      linarith
    refine lt_of_le_of_lt ?_ hbinade
    have hpow := hnear (2 ^ 52)
    rw [Int.cast_pow, Int.cast_ofNat] at hpow
    rw [hdist, hdist, mul_le_mul_iff_left₀ hu]
    exact hpow.elim le_of_lt fun h => h.1.le

end Grid

/-! The parts of a pattern. -/

theorem floatFraction_lt (p : FloatBits) : floatFraction p < 2 ^ 52 := (p.extractLsb' 0 52).isLt

theorem floatSignificand_lt (p : FloatBits) : floatSignificand p < 2 ^ 53 := by
  have := floatFraction_lt p
  rw [floatSignificand]
  split <;> omega

theorem floatExponent_zero : floatExponent 0 = 0 := rfl

theorem floatValue_zero : floatValue 0 = 0 := by
  have hsig : floatSignificand 0 = 0 := rfl
  rw [floatValue, hsig, Nat.cast_zero, mul_zero, zero_mul]

/-- Every pattern stands for an integer below `2 ^ 53` in some unit. -/
theorem floatValue_eq_mul_ulp (p : FloatBits) : ∃ (z : Int) (e : Nat), |z| < 2 ^ 53 ∧ floatValue p = z * ulp e := by
  refine ⟨(if floatSign p then -1 else 1) * floatSignificand p, max (floatExponent p) 1 - 1, ?_, ?_⟩
  · have hsig : (floatSignificand p : Int) < 2 ^ 53 := by
      have := floatSignificand_lt p
      omega
    rw [abs_mul, Nat.abs_cast]
    split <;> simpa using hsig
  · have hexp : (max (floatExponent p) 1 : Int) - 1075 = (max (floatExponent p) 1 - 1 : ℕ) - 1074 := by omega
    rw [floatValue, hexp, ulp]
    push_cast
    rfl

/-- A significand and a unit put together as `magnitudeBits` does are the pattern's own, also after a carry. -/
theorem floatParts_of_bits {p : FloatBits} {e r : Nat} (hr : r ≤ 2 ^ 53) (he : e ≠ 0 → 2 ^ 52 ≤ r)
    (hexp : floatExponent p = (e * 2 ^ 52 + r) / 2 ^ 52) (hfrac : floatFraction p = (e * 2 ^ 52 + r) % 2 ^ 52) :
    (floatSignificand p : ℚ) * 2 ^ ((max (floatExponent p) 1 : Int) - 1075) = r * ulp e ∧
    (r % 2 = 0 → floatSignificand p % 2 = 0) := by
  obtain hsub | ⟨hle, hlt⟩ | rfl : r < 2 ^ 52 ∨ (2 ^ 52 ≤ r ∧ r < 2 ^ 53) ∨ r = 2 ^ 53 := by omega
  · obtain rfl : e = 0 := by omega
    have hexp' : floatExponent p = 0 := by omega
    have hsig : floatSignificand p = r := by
      rw [floatSignificand, if_pos hexp']
      omega
    rw [hsig, hexp']
    exact ⟨rfl, id⟩
  · have hexp' : floatExponent p = e + 1 := by omega
    have hsig : floatSignificand p = r := by
      rw [floatSignificand, if_neg (by omega)]
      omega
    rw [hsig, hexp', ulp]
    refine ⟨?_, id⟩
    congr 2
    omega
  · have hexp' : floatExponent p = e + 2 := by omega
    have hsig : floatSignificand p = 2 ^ 52 := by
      rw [floatSignificand, if_neg (by omega)]
      omega
    rw [hsig, hexp']
    refine ⟨?_, fun _ => by norm_num⟩
    rw [Nat.cast_pow, Nat.cast_pow, Nat.cast_ofNat, two_pow_mul_ulp, ← zpow_natCast, ← zpow_add₀ two_ne_zero]
    congr 1
    omega

section Flt

variable {num : Int} {den : Nat}

theorem flt_zero (den : Nat) : flt 0 den = 0 := rfl

theorem floatSign_flt (h : num ≠ 0) (den : Nat) : floatSign (flt num den) = decide (num < 0) := by
  have hle : magnitudeBits Config.binary64 num.natAbs den ≤ 2047 * 2 ^ 52 := min_le_right _ _
  rw [floatSign, flt, fltBits, if_neg h, ← BitVec.msb_eq_getLsbD_last, BitVec.msb_eq_decide, BitVec.toNat_ofNat]
  generalize magnitudeBits Config.binary64 num.natAbs den = m at hle
  split <;> simp only [decide_eq_decide] <;> omega

theorem floatFraction_flt (h : num ≠ 0) (den : Nat) :
    floatFraction (flt num den) = magnitudeBits Config.binary64 num.natAbs den % 2 ^ 52 := by
  rw [floatFraction, flt, fltBits, if_neg h, BitVec.extractLsb'_toNat, BitVec.toNat_ofNat, Nat.shiftRight_zero]
  generalize magnitudeBits Config.binary64 num.natAbs den = m
  split
  · dsimp only
    omega
  · omega

/-- Below the overflow range the pattern is the unit and the significand put together. -/
theorem magnitudeBits_of_lt {n d : Nat} (hn : 0 < n) (hd : 0 < d) (h : n < 2 ^ 1023 * d) : ulpExponent n d ≤ 2044 ∧
    magnitudeBits Config.binary64 n d = ulpExponent n d * 2 ^ 52 + roundedSignificand n d := by
  have hq : (2 : ℚ) ^ binade n d < 2 ^ (1023 : Int) := (binade_spec hn hd).1.trans_lt <| by
    rw [div_lt_iff₀ (by exact_mod_cast hd)]
    exact_mod_cast h
  have he : ulpExponent n d ≤ 2044 := by
    have := (zpow_lt_zpow_iff_right₀ one_lt_two).1 hq
    rw [ulpExponent]
    omega
  obtain ⟨hr, -⟩ := roundedSignificand_bounds hn hd
  exact ⟨he, (magnitudeBits_eq_min n d).trans (min_eq_left (by omega))⟩

/-- What `flt` gives below the overflow range: a finite value, the rounded significand in its unit with the sign of the
quotient, and an even significand if the rounded one is. -/
theorem flt_spec (hnum : num ≠ 0) (hden : 0 < den) (h : num.natAbs < 2 ^ 1023 * den) :
    floatFinite (flt num den) = true ∧
    floatValue (flt num den) =
      num.sign * (roundedSignificand num.natAbs den * ulp (ulpExponent num.natAbs den)) ∧
    (roundedSignificand num.natAbs den % 2 = 0 → floatSignificand (flt num den) % 2 = 0) := by
  have hn := Int.natAbs_pos.2 hnum
  obtain ⟨he, hbits⟩ := magnitudeBits_of_lt hn hden h
  obtain ⟨hr, hr'⟩ := roundedSignificand_bounds hn hden
  have hexp := hbits ▸ floatExponent_flt hnum den
  obtain ⟨hvalue, heven⟩ := floatParts_of_bits hr hr' hexp (hbits ▸ floatFraction_flt hnum den)
  refine ⟨decide_eq_true (by omega), ?_, heven⟩
  rw [floatValue, mul_assoc, hvalue, floatSign_flt hnum]
  congr 1
  obtain hneg | hpos := lt_or_gt_of_ne hnum
  · simp [hneg, Int.sign_eq_neg_one_of_neg]
  · simp [hpos.not_gt, Int.sign_eq_one_of_pos hpos]

/-- A distance from a quotient, with the quotient's sign taken off both numbers. -/
theorem abs_sign_mul_sub (hnum : num ≠ 0) (den : Nat) (x : ℚ) :
    |num.sign * x - (num : ℚ) / den| = |x - (num.natAbs : ℚ) / den| := by
  obtain hneg | hpos := lt_or_gt_of_ne hnum
  · rw [Int.sign_eq_neg_one_of_neg hneg, Nat.cast_natAbs, abs_of_neg hneg, ← abs_neg]
    push_cast
    ring_nf
  · rw [Int.sign_eq_one_of_pos hpos, Nat.cast_natAbs, abs_of_pos hpos, Int.cast_one, one_mul]

/-- A value of the format is again one when its sign is turned, so it is the sign of `num` times an integer in some
unit. -/
theorem floatValue_eq_sign_mul (hnum : num ≠ 0) (p : FloatBits) :
    ∃ (z : Int) (e : Nat), |z| < 2 ^ 53 ∧ floatValue p = num.sign * (z * ulp e) := by
  obtain ⟨z, e, hz, hp⟩ := floatValue_eq_mul_ulp p
  have hsq : num.sign * num.sign = 1 := by rw [← Int.sign_mul, Int.sign_eq_one_of_pos (mul_self_pos.2 hnum)]
  refine ⟨num.sign * z, e, by rwa [abs_mul, Int.abs_sign_of_ne_zero hnum, one_mul], ?_⟩
  rw [hp, ← mul_assoc, ← Int.cast_mul, ← mul_assoc, hsq, one_mul]

end Flt

/-- Settles O44: zero is a value of the format; of any other quotient the magnitude is rounded to the nearest integer in
its unit, and no value of the format is nearer. -/
theorem floatIsNearestTiesToEven : Obligations.FloatIsNearestTiesToEven := by
  refine ⟨flt_zero, fun num den hden h => ?_⟩
  obtain rfl | hnum := eq_or_ne num 0
  · rw [flt_zero, floatValue_zero]
    refine ⟨rfl, fun p _ => ?_⟩
    rw [Int.cast_zero, zero_div, sub_zero, sub_zero, abs_zero]
    obtain hp | hp := eq_or_ne (floatValue p) 0
    · exact .inr ⟨by rw [hp, abs_zero], .inl hp⟩
    · exact .inl (abs_pos.2 hp)
  · obtain ⟨hfinite, hvalue, heven⟩ := flt_spec hnum hden h
    refine ⟨hfinite, fun p _ => ?_⟩
    obtain ⟨z, e, hz, hp⟩ := floatValue_eq_sign_mul hnum p
    rw [hvalue, hp, abs_sign_mul_sub hnum, abs_sign_mul_sub hnum]
    exact (roundedSignificand_nearest (Int.natAbs_pos.2 hnum) hden hz e).imp_right fun ⟨heq, htie⟩ =>
      ⟨heq, htie.imp (congrArg _) heven⟩

/-! The channels of a sample. -/

theorem s16_eq_zero_iff {v : Word} : s16 v = 0 ↔ v = 0 := by
  rw [s16]
  split <;> bv_omega

theorem decide_s16_neg (v : Word) : decide (s16 v < 0) = v.getLsbD 15 := by
  rw [← BitVec.msb_eq_getLsbD_last, BitVec.msb_eq_decide, decide_eq_decide, s16]
  split <;> omega

/-- `flt` loses no quotient of the normal range to zero: the significand there has its full length. -/
theorem flt_ne_zero {num : Int} {den : Nat} (hnum : num ≠ 0) (hden : 0 < den) (hlo : -1022 ≤ binade num.natAbs den) :
    flt num den ≠ 0 := by
  intro h
  have hexp := floatExponent_flt hnum den
  obtain ⟨hr, -⟩ := significand_bounds (Int.natAbs_pos.2 hnum) hden 52
  rw [h, floatExponent_zero, magnitudeBits_of_normal hlo] at hexp
  rw [Nat.cast_ofNat] at hr
  omega

/-- Settles O45: a channel is zero or normal (`channelValue_sound`), and it is zero for the register value 0 only. -/
theorem sampleIsNormalOrZero : Obligations.SampleIsNormalOrZero := by
  intro v i _
  by_cases hv : v = 0
  · exact .inl ⟨by rw [hv]; rfl, hv⟩
  · have hnum : s16 v ≠ 0 := mt s16_eq_zero_iff.1 hv
    have hden : 0 < channelDivisor i ∧ (channelDivisor i).log2 < 10 := by
      rw [channelDivisor]
      split <;> decide
    obtain ⟨hlo, -⟩ := binade_bounds (s16 v).natAbs (channelDivisor i)
    have hne : channelValue i v ≠ 0 := flt_ne_zero hnum hden.1 (by omega)
    exact .inr ⟨(channelValue_sound i v).resolve_left hne, hv, (floatSign_flt hnum _).trans (decide_s16_neg v)⟩

end Sys2Proof.Machine
end

section
/-! SUPPORT. Errors and their handling: every event is answered, an error writes `STATUS` alone and has the cause that
the spec lists for it, no command reads `STATUS`, and the firmware compares the echo (60_exceptions.md R180 to R197). -/

namespace Sys2Proof.Machine

/-! Every access is answered. -/

/-- Every row of the table has a meaning, which answers in every state. -/
theorem exec_answers (i : Instr) (s : State) : ∃ t, exec i s = .next t := by
  cases i <;> exact ⟨_, rfl⟩

theorem runCommand_answers (s : State) : ∃ t, runCommand s = .next t := by
  cases hc : decodeCmd s.cmd with
  | none => exact ⟨_, runCommand_of_undefined hc⟩
  | some i =>
    rw [runCommand_of_defined hc]
    exact exec_answers i s

theorem Event.wf_read_iff {n : Nat} : (Event.read n).wf = true ↔ ∃ r : HostReg, r.number = n := by
  rw [Event.wf, Option.isSome_iff_exists]
  exact exists_congr fun r => ⟨HostReg.number_of_ofNumber, fun h => h ▸ HostReg.ofNumber_number r⟩

theorem Event.wf_write_iff {n v : Nat} :
    (Event.write n v).wf = true ↔ ∃ r : HostReg, r.number = n ∧ v < 2 ^ r.width := by
  constructor
  · intro h
    cases hr : HostReg.ofNumber n with
    | none => simp [Event.wf, hr] at h
    | some r => exact ⟨r, HostReg.number_of_ofNumber hr, by simpa [Event.wf, hr] using h⟩
  · rintro ⟨r, rfl, hv⟩
    simpa [Event.wf] using hv

theorem hostWrite_answers (s : State) {r : HostReg} {v : Nat} (hv : v < 2 ^ r.width) :
    ∃ t, hostWrite r.number v s = .next t := by
  by_cases hr : r = .cmd
  · subst hr
    simpa only [hostWrite, HostReg.ofNumber_number, if_pos hv, if_true] using runCommand_answers _
  · exact ⟨_, hostWrite_of_fits s hr hv⟩

/-- Settles O18: a well-formed access names a register and fits it, and a command answers in every state. -/
theorem wellFormedEventsAreAnswered : Obligations.WellFormedEventsAreAnswered := by
  intro s e rest hp hwf
  cases e with
  | write n v =>
    obtain ⟨r, rfl, hv⟩ := Event.wf_write_iff.1 hwf
    rw [step_of_write hp]
    exact hostWrite_answers _ hv
  | read n =>
    obtain ⟨r, rfl⟩ := Event.wf_read_iff.1 hwf
    exact ⟨_, (step_of_read hp).trans (hostRead_number _ r)⟩
  | reset => exact ⟨_, step_of_pending hp⟩

/-! An error writes `STATUS` alone. -/

theorem EncodeEnd.error_frame {s t : State} (h : EncodeEnd s t) (herr : t.status.getLsbD 3 = true) :
    t = { s with status := t.status, draws := t.draws } := by
  cases h with
  | error => rfl
  | frame => exact absurd herr (show ¬ Status.okFrame.isError = true by decide)

theorem decodeSample_error_frame {s : State} (herr : (decodeSample s).status.getLsbD 3 = true) :
    decodeSample s = { s with status := (decodeSample s).status, draws := (decodeSample s).draws } := by
  rcases decodeSample_cases s with ⟨-, e⟩ | ⟨-, values, d, -, e⟩ <;> rw [e] at herr ⊢
  · rfl
  · exact absurd herr (show ¬ Status.okSample.isError = true by decide)

theorem sumFrame_error_frame {s : State} (herr : (sumFrame s).status.getLsbD 3 = true) :
    sumFrame s = { s with status := (sumFrame s).status, draws := (sumFrame s).draws } := by
  rcases sumFrame_cases s with ⟨-, e⟩ | ⟨-, bytes, d, -, e⟩ <;> rw [e] at herr ⊢
  · rfl
  · exact absurd herr (show ¬ Status.okCrc.isError = true by decide)

/-- Settles O48, by the kinds of end: each success has a status with bit 3 clear. -/
theorem errorsWriteStatusOnly : Obligations.ErrorsWriteStatusOnly := by
  intro i s t h herr
  rcases exec_end h with hend | hend | rfl | rfl
  · exact hend.error_frame herr
  · exact hend.resultGroup.1 herr
  · exact decodeSample_error_frame herr
  · exact sumFrame_error_frame herr

/-! No command reads `STATUS`. -/

/-- What comes next does not depend on what `STATUS` holds. -/
def IgnoresStatus (next : State → State) : Prop := ∀ (s : State) (x : Byte), next { s with status := x } = next s

theorem ignoresStatus_raise (st : Status) : IgnoresStatus (raise st) := fun _ _ => rfl

/-- A choice by anything but the state. -/
theorem IgnoresStatus.ite (c : Prop) [Decidable c] {f g : State → State} (hf : IgnoresStatus f)
    (hg : IgnoresStatus g) : IgnoresStatus fun s => if c then f s else g s := by
  by_cases hc : c
  · simpa only [if_pos hc] using hf
  · simpa only [if_neg hc] using hg

section Parses

variable (i : Instr) (fc : Byte) (payload : List Byte)

theorem ignoresStatus_parseException : IgnoresStatus (parseException payload) := by
  match payload with
  | [] | _ :: _ :: _ => exact ignoresStatus_raise _
  | [_] => exact fun _ _ => rfl

theorem ignoresStatus_parseRegisters : IgnoresStatus (parseRegisters payload) := by
  cases payload with
  | nil => exact ignoresStatus_raise _
  | cons bc data => exact fun _ _ => rfl

theorem ignoresStatus_parseAck : IgnoresStatus (parseAck fc payload) := by
  match payload with
  | [] | [_] | [_, _] | [_, _, _] | _ :: _ :: _ :: _ :: _ :: _ => exact ignoresStatus_raise _
  | [_, _, _, _] => exact fun _ _ => rfl

theorem ignoresStatus_parseResponse : IgnoresStatus (parseResponse fc payload) :=
  .ite _ (ignoresStatus_parseException payload) <| .ite _ (ignoresStatus_parseRegisters payload) <|
    .ite _ (ignoresStatus_parseAck fc payload) (ignoresStatus_raise _)

theorem ignoresStatus_parseOf : IgnoresStatus (parseOf i fc payload) := by
  cases i with
  | rsp03 => exact .ite _ (ignoresStatus_parseRegisters payload) (ignoresStatus_raise _)
  | rsp06 | rsp10 => exact .ite _ (ignoresStatus_parseAck fc payload) (ignoresStatus_raise _)
  | rspexc low => exact .ite _ (ignoresStatus_parseException payload) (ignoresStatus_raise _)
  | _ => exact ignoresStatus_parseResponse fc payload

end Parses

/-- The checks before the payload read the operands of a decode, and `STATUS` is none of them. -/
theorem ignoresStatus_decodeWith {parse : Byte → List Byte → State → State}
    (hp : ∀ fc payload, IgnoresStatus (parse fc payload)) : IgnoresStatus (decodeWith parse) := by
  intro s x
  have hsame := receive_same (s := { s with status := x }) (s' := s) rfl rfl rfl fun _ _ _ => rfl
  simp only [decodeWith]
  generalize receive { s with status := x } = r, receive s = r' at hsame ⊢
  cases hsame with
  | rejected st d => exact ignoresStatus_raise st (s.setDraws d) x
  | accepted fc payload d => exact hp fc payload (s.setDraws d) x

theorem exec_decode_ignoresStatus {i : Instr} (hi : i = .dec ∨ i.space = .rsp) (s : State) (x : Byte) :
    exec i { s with status := x } = exec i s := by
  rw [exec_eq_decodeWith_parseOf hi, exec_eq_decodeWith_parseOf hi]
  exact congrArg Host.Outcome.next (ignoresStatus_decodeWith (ignoresStatus_parseOf i) s x)

/-- Settles O53: the commands that build a frame, sum one or decode a sample name no `STATUS`, and a decode reads none
in its checks and none in its parse. -/
theorem commandsDoNotReadStatus : Obligations.CommandsDoNotReadStatus := by
  intro i s x
  cases i with
  | dec => exact exec_decode_ignoresStatus (.inl rfl) s x
  | rsp03 | rsp06 | rsp10 | rspexc => exact exec_decode_ignoresStatus (.inr rfl) s x
  | enc03 | enc06 | enc10 | ftd | crc | req03 | req06 | req10 => rfl

/-! The causes of the errors. -/

/-- `DEC` on a frame whose length passes: the address decides `ERR_ADDR`, and nothing after it gives it. -/
theorem decodeWith_status_of_length {s : State} (h4 : 4 ≤ s.flen.toNat) (h256 : s.flen.toNat ≤ 256) :
    ((s.fb.draw 0 s.draws).1 ≠ s.unit ∧ (decodeWith parseResponse s).status = Status.errAddr.code) ∨
    ((s.fb.draw 0 s.draws).1 = s.unit ∧
      (decodeWith parseResponse s).endsIn (.errCrc :: payloadOutcomes .dec)) := by
  have hr : receive s = if (s.fb.draw 0 s.draws).1 ≠ s.unit then
      .rejected .errAddr (s.setDraws (s.fb.draw 0 s.draws).2)
      else checkTrailer s.flen.toNat (s.fb.draw 0 s.draws).2 s := by
    rw [receive, if_neg (Nat.not_lt.2 h256), if_neg (Nat.not_lt.2 h4)]
  by_cases ha : (s.fb.draw 0 s.draws).1 = s.unit
  · refine .inr ⟨ha, ?_⟩
    rw [decodeWith, hr, if_neg (not_not.2 ha)]
    rcases checkTrailer_cases s.flen.toNat (s.fb.draw 0 s.draws).2 s with ⟨d, e⟩ | ⟨fc, payload, d, e, -⟩ <;> rw [e]
    · exact ⟨.errCrc, List.mem_cons_self, rfl⟩
    · exact (parseResponse_endsIn fc payload _).mono (List.subset_cons_self _ _)
  · refine .inl ⟨ha, ?_⟩
    rw [decodeWith, hr, if_pos ha]
    rfl

/-- Past the address check `DEC` ends with no status but its successes, `ERR_CRC` and `ERR_MALFORMED`. -/
theorem outcomes_past_the_address : ∀ st ∈ Status.errCrc :: payloadOutcomes .dec, st ≠ .errParam ∧ st ≠ .errShort ∧
    st ≠ .errInsufficient ∧ st ≠ .errAddr ∧ st ≠ .errCmd ∧ st ≠ .idle := by decide

/-- Settles O49, command by command; `DEC` by its checks in their order. -/
theorem errorsHaveTheirCauses : Obligations.ErrorsHaveTheirCauses := by
  intro i s t hi h
  cases i with
  | enc03 | enc06 =>
    obtain rfl := Host.Outcome.next.inj h
    simp [emitFrame]
  | enc10 =>
    obtain rfl := Host.Outcome.next.inj h
    rcases emitReq10_cases s with ⟨hc, e⟩ | ⟨hc, values, d, -, e⟩ <;> simp [e, hc]
  | ftd =>
    obtain rfl := Host.Outcome.next.inj h
    rcases decodeSample_cases s with ⟨hc, e⟩ | ⟨hc, values, d, -, e⟩ <;> simp [e, hc]
  | crc =>
    obtain rfl := Host.Outcome.next.inj h
    rcases sumFrame_cases s with ⟨hc, e⟩ | ⟨hc, bytes, d, -, e⟩ <;> simp [e, hc]
  | dec =>
    by_cases hlong : 256 < s.flen.toNat
    · obtain rfl := Host.Outcome.next.inj (h.symm.trans (overlongFrameIsParameterError s .dec (.inl rfl) hlong))
      simp [hlong, show ¬ s.flen.toNat < 4 by omega]
    by_cases hshort : s.flen.toNat < 4
    · obtain rfl := Host.Outcome.next.inj (h.symm.trans (shortFrameIsRejectedUnread s .dec (.inl rfl) hshort))
      simp [hshort, hlong]
    obtain rfl := Host.Outcome.next.inj h
    have h4 : 4 ≤ s.flen.toNat := Nat.le_of_not_lt hshort
    have h256 : s.flen.toNat ≤ 256 := Nat.le_of_not_lt hlong
    rcases decodeWith_status_of_length h4 h256 with ⟨ha, e⟩ | ⟨ha, st, hst, e⟩
    · have haddr : ∀ a, s.fb.read? 0 = some a → a ≠ s.unit := fun a h0 => by
        rwa [Memory.draw_of_read? h0] at ha
      simpa [e, h4, h256] using haddr
    · have haddr : ∀ a, s.fb.read? 0 = some a → a = s.unit := fun a h0 => by
        rwa [Memory.draw_of_read? h0] at ha
      simpa [e, h4, h256, outcomes_past_the_address st hst] using haddr
  | req03 | req06 | req10 | rsp03 | rsp06 | rsp10 | rspexc => cases hi

/-! What the firmware makes of an acknowledgement. -/
section Acknowledgement

/-- The firmware's answer to whether an acknowledgement echoes the request (60_exceptions.md R196). -/
def echoResult (echo : Prop) [Decidable echo] : Option ClientResult :=
  if echo then some .acknowledged else some .protocolError

theorem echoResult_eq_acknowledged_iff {echo : Prop} [Decidable echo] :
    echoResult echo = some .acknowledged ↔ echo := by
  simp [echoResult]

theorem echoResult_of_not {echo : Prop} [Decidable echo] (h : ¬ echo) : echoResult echo = some .protocolError :=
  if_neg h

variable (s : State) (fc : Byte) (reg dat : Word)

theorem clientResult_writeSingle_of_ack :
    clientResult .writeSingleRegister ((s.setAck fc reg dat).setStatus .okWriteack) =
      echoResult (fc = 0x06 ∧ reg = s.reg ∧ dat = s.val) := rfl

theorem clientResult_writeMultiple_of_ack :
    clientResult .writeMultipleRegisters ((s.setAck fc reg dat).setStatus .okWriteack) =
      echoResult (fc = 0x10 ∧ reg = s.reg ∧ dat = s.cnt) := rfl

theorem clientResult_read_of_ack :
    clientResult .readHoldingRegisters ((s.setAck fc reg dat).setStatus .okWriteack) = some .protocolError := rfl

end Acknowledgement

/-- Settles O57: `DEC` exposes the fields of the acknowledgement, which the firmware compares with what it sent. -/
theorem firmwareComparesTheEcho : Obligations.FirmwareComparesTheEcho := by
  intro s fc r0 r1 d0 d1 hfc hs
  have hdec := exec_of_goodFrame (.inl rfl) hs
  rw [parseOf_ack (.inl ⟨rfl, hfc⟩)] at hdec
  refine ⟨(s.setAck fc (be16 r0 r1) (be16 d0 d1)).setStatus .okWriteack, hdec, ?_⟩
  rw [clientResult_writeSingle_of_ack, clientResult_writeMultiple_of_ack]
  exact ⟨echoResult_eq_acknowledged_iff, echoResult_eq_acknowledged_iff, echoResult_of_not, echoResult_of_not,
    clientResult_read_of_ack s fc _ _⟩

end Sys2Proof.Machine
end

section
/-! SUPPORT. Reset as an event, and the stale data after a `DEC` that delivers no registers (70_reset_and_hazards.md
R210, R218). -/

namespace Sys2Proof.Machine

/-- Settles O2: the step performs the pending event, and performing a reset is the reset state under the host's own
record of the run. -/
theorem resetEventDiscardsAllState : Obligations.ResetEventDiscardsAllState :=
  fun _ _ hp => step_of_pending hp

/-- A decode that delivers no registers leaves everything that `FTD` reads or writes but `STATUS` and the draws. -/
theorem DecodeEnd.sampleRegistersKept {s t : State} (h : DecodeEnd s t) (hne : t.status ≠ Status.okRegisters.code) :
    t.rb = s.rb ∧ t.rcnt = s.rcnt ∧ t.ft = s.ft := by
  cases h with
  | registers => exact absurd rfl hne
  | error | exception | ack => exact ⟨rfl, rfl, rfl⟩

/-- What `FTD` leaves in `STATUS`, `FT` and the draws depends on `RCNT`, `RB`, `FT` and the draws before it alone. -/
theorem decodeSample_congr {s s' : State} (hrb : s.rb = s'.rb) (hrcnt : s.rcnt = s'.rcnt) (hft : s.ft = s'.ft)
    (hdraws : s.draws = s'.draws) :
    (decodeSample s).status = (decodeSample s').status ∧ (decodeSample s).ft = (decodeSample s').ft ∧
      (decodeSample s).draws = (decodeSample s').draws := by
  simp only [decodeSample, State.readCells_fst, State.readCells_snd, hrb, hrcnt, hdraws]
  split
  · exact ⟨rfl, hft, hdraws⟩
  · exact ⟨rfl, by simp [hft], rfl⟩

theorem decodeSample_status_of_six {s : State} (h : 6 ≤ s.rcnt.toNat) :
    (decodeSample s).status = Status.okSample.code := by
  obtain ⟨hlt, -⟩ | ⟨-, values, d, -, e⟩ := decodeSample_cases s
  · omega
  · rw [e]
    rfl

/-- Settles O56: a `DEC` without registers keeps `RB`, `RCNT` and `FT`, all that `FTD` reads but the draws; after an
error only `STATUS` and the draws have changed, and no command reads `STATUS`. -/
theorem failedDecodeLeavesOldRegisters : Obligations.FailedDecodeLeavesOldRegisters := by
  intro s t h hne
  obtain ⟨u, hu, hend⟩ := execDec_end s
  obtain rfl := Host.Outcome.next.inj (h.symm.trans hu)
  obtain ⟨hrb, hrcnt, hft⟩ := hend.sampleRegistersKept hne
  obtain ⟨hstatus, hsample, hdraws⟩ := decodeSample_congr (s' := { s with draws := t.draws }) hrb hrcnt hft rfl
  refine ⟨hrb, hrcnt, ⟨_, _, rfl, rfl, hstatus, hsample, hdraws, fun hsix => ?_⟩, fun herr => ?_⟩
  · exact decodeSample_status_of_six (hrcnt ▸ hsix)
  · have ht := hend.resultGroup.1 herr
    calc exec .ftd t = exec .ftd { s with draws := t.draws, status := t.status } := congrArg (exec .ftd) ht
      _ = exec .ftd { s with draws := t.draws } := commandsDoNotReadStatus .ftd { s with draws := t.draws } t.status

end Sys2Proof.Machine
end
